-- ==== Sys2Proof/Word.lean ====
section
/-!
DEFINITION. The bit widths of the machine, by the names the spec uses for them (spec/00_scope.md R6, spec/10_state.md R10,
spec/30_encoding.md R52). Everything that selects or joins bits stands in Decode.lean and under Machine/.
-/

namespace Sys2Proof

/-- A memory byte, a general register or a timer: 8 bits, unsigned (R11, R17, R18). -/
abbrev Byte := BitVec 8

/-- An instruction word, `I`, `pc` or a stack entry: 16 bits, unsigned (R14, R15, R16, R50). -/
abbrev Word := BitVec 16

/-- The number of a general register, the `x` and `y` fields (R52): every value 0..15 names a register (R57). -/
abbrev RegNum := BitVec 4

/-- The 4-bit `n` field (R52): the sprite height of a draw. -/
abbrev Nibble := BitVec 4

/-- The 12-bit `nnn` field (R52): an address 0..4095. -/
abbrev Addr12 := BitVec 12

/-- The keyboard vector: bit `k` is 1 when key `k` is pressed (R22, R137, R161). -/
abbrev KeyVector := BitVec 16

end Sys2Proof
end

