-- ==== Sys2Proof/Config.lean ====
section
/-!
DEFINITION. The parameters the source leaves to the implementation, with the defaults of spec/00_scope.md R4, and the two
free values: the inputs of a `Step` that no schedule names.
-/

namespace Sys2Proof

/-- `DRAW_EDGE`: what a draw does with a cell coordinate outside the grid. `wrap` is the only value the spec defines
(R4, R95; the spec's decision D8; log 8). -/
inductive DrawEdge where
  /-- each coordinate is reduced modulo 64 or 32, pixel by pixel -/
  | wrap
  deriving DecidableEq, Repr

/-- `KEY_SELECT`: which key the key wait reports when several are pressed. `lowest` is the only value the spec defines
(R4, R103; the spec's decision D11; log 9). -/
inductive KeySelect where
  /-- the lowest-numbered pressed key -/
  | lowest
  deriving DecidableEq, Repr

/-- `UNDOC_OPS`: whether the three instructions the source counts but never describes exist (R4, R118; decision D2; log 7). -/
inductive UndocOps where
  /-- rules R115 to R117 apply -/
  | implemented
  /-- the words `Annn`, `Cxnn` and `Fx18` are unrecognized -/
  | fatal
  deriving DecidableEq, Repr

/-- The configuration of R4: fixed at construction, changed by no operation. -/
structure Config where
  /-- `STACK_DEPTH`: most return addresses the call stack holds -/
  stackDepth : Nat
  /-- `FONT`: the 80 bytes preloaded at 0x000 to 0x04F -/
  font : Vector Byte 80
  /-- `DRAW_EDGE` -/
  drawEdge : DrawEdge
  /-- `KEY_SELECT` -/
  keySelect : KeySelect
  /-- `UNDOC_OPS` -/
  undocOps : UndocOps
  deriving DecidableEq, Repr

/-- UNVERIFIED. The default `FONT`, the table of R31, which the spec itself takes from general knowledge (G4; log 11). -/
def Config.standardFont : Vector Byte 80 := #v[
  0xF0, 0x90, 0x90, 0x90, 0xF0,
  0x20, 0x60, 0x20, 0x20, 0x70,
  0xF0, 0x10, 0xF0, 0x80, 0xF0,
  0xF0, 0x10, 0xF0, 0x10, 0xF0,
  0x90, 0x90, 0xF0, 0x10, 0x10,
  0xF0, 0x80, 0xF0, 0x10, 0xF0,
  0xF0, 0x80, 0xF0, 0x90, 0xF0,
  0xF0, 0x10, 0x20, 0x40, 0x40,
  0xF0, 0x90, 0xF0, 0x90, 0xF0,
  0xF0, 0x90, 0xF0, 0x10, 0xF0,
  0xF0, 0x90, 0xF0, 0x90, 0x90,
  0xE0, 0x90, 0xE0, 0x90, 0xE0,
  0xF0, 0x80, 0x80, 0x80, 0xF0,
  0xE0, 0x90, 0x90, 0x90, 0xE0,
  0xF0, 0x80, 0xF0, 0x80, 0xF0,
  0xF0, 0x80, 0xF0, 0x80, 0x80]

/-- The defaults of R4. -/
def Config.standard : Config :=
  { stackDepth := 16, font := Config.standardFont, drawEdge := .wrap, keySelect := .lowest, undocOps := .implemented }

/-- FREE VALUE (log 3). The keyboard vector of the `n`-th `Step` whose inputs no schedule names: any of the 65536 vectors
may be supplied (R22, R137). -/
opaque Config.freeKeys : Nat → KeyVector

/-- FREE VALUE (log 3). The random byte of the `n`-th `Step` whose inputs no schedule names: 'a free value under no law'
(R23, R138). -/
opaque Config.freeRnd : Nat → Byte

end Sys2Proof
end

