-- ==== Sys2Proof/Syntax.lean ====
section
/-!
DEFINITION. The instruction set: one constructor per row of spec/opcode_table.json, in the table's order
(spec/30_encoding.md R55). The operands are the fields the row names.
-/

namespace Sys2Proof

/-- The 34 instructions (R55). Every value of every field is legal (R57). -/
inductive Instr where
  /-- `CLS`, word `00E0` (R70) -/
  | cls
  /-- `RET`, word `00EE` (R71) -/
  | ret
  /-- `JP nnn`, word `1nnn` (R72) -/
  | jp (nnn : Addr12)
  /-- `CALL nnn`, word `2nnn` (R73) -/
  | call (nnn : Addr12)
  /-- `SE Vx, nn`, word `3xnn` (R74) -/
  | seImm (x : RegNum) (nn : Byte)
  /-- `SNE Vx, nn`, word `4xnn` (R75) -/
  | sneImm (x : RegNum) (nn : Byte)
  /-- `SE Vx, Vy`, word `5xy0` (R76) -/
  | seReg (x y : RegNum)
  /-- `LD Vx, nn`, word `6xnn` (R81) -/
  | ldImm (x : RegNum) (nn : Byte)
  /-- `ADD Vx, nn`, word `7xnn` (R82) -/
  | addImm (x : RegNum) (nn : Byte)
  /-- `LD Vx, Vy`, word `8xy0` (R83) -/
  | ldReg (x y : RegNum)
  /-- `OR Vx, Vy`, word `8xy1` (R84) -/
  | or (x y : RegNum)
  /-- `AND Vx, Vy`, word `8xy2` (R85) -/
  | and (x y : RegNum)
  /-- `XOR Vx, Vy`, word `8xy3` (R86) -/
  | xor (x y : RegNum)
  /-- `ADD Vx, Vy`, word `8xy4` (R87) -/
  | addReg (x y : RegNum)
  /-- `SUB Vx, Vy`, word `8xy5` (R88) -/
  | sub (x y : RegNum)
  /-- `SHR Vx`, word `8xy6` (R90); `y` is a field of the word that the operation ignores (R57) -/
  | shr (x y : RegNum)
  /-- `SUBN Vx, Vy`, word `8xy7` (R89) -/
  | subn (x y : RegNum)
  /-- `SHL Vx`, word `8xyE` (R91); `y` is a field of the word that the operation ignores (R57) -/
  | shl (x y : RegNum)
  /-- `SNE Vx, Vy`, word `9xy0` (R77) -/
  | sneReg (x y : RegNum)
  /-- `LD I, nnn`, word `Annn` (R115) -/
  | ldI (nnn : Addr12)
  /-- `JP V0, nnn`, word `Bnnn` (R78) -/
  | jpV0 (nnn : Addr12)
  /-- `RND Vx, nn`, word `Cxnn` (R116) -/
  | rnd (x : RegNum) (nn : Byte)
  /-- `DRW Vx, Vy, n`, word `Dxyn` (R95) -/
  | drw (x y : RegNum) (n : Nibble)
  /-- `SKP Vx`, word `Ex9E` (R100) -/
  | skp (x : RegNum)
  /-- `SKNP Vx`, word `ExA1` (R101) -/
  | sknp (x : RegNum)
  /-- `LD Vx, DT`, word `Fx07` (R102) -/
  | ldVxDt (x : RegNum)
  /-- `LD Vx, K`, word `Fx0A` (R103) -/
  | ldVxK (x : RegNum)
  /-- `LD DT, Vx`, word `Fx15` (R104) -/
  | ldDtVx (x : RegNum)
  /-- `LD ST, Vx`, word `Fx18` (R117) -/
  | ldStVx (x : RegNum)
  /-- `ADD I, Vx`, word `Fx1E` (R105) -/
  | addI (x : RegNum)
  /-- `LD F, Vx`, word `Fx29` (R106) -/
  | ldF (x : RegNum)
  /-- `LD B, Vx`, word `Fx33` (R107) -/
  | ldB (x : RegNum)
  /-- `LD [I], Vx`, word `Fx55` (R108) -/
  | ldMemVx (x : RegNum)
  /-- `LD Vx, [I]`, word `Fx65` (R109) -/
  | ldVxMem (x : RegNum)
  deriving DecidableEq, Repr

end Sys2Proof
end

