-- ==== Sys2Proof/WellFormed.lean ====
section
/-!
DEFINITION. When an instruction exists. The field widths are in the types, and every field value is legal
(spec/30_encoding.md R57), so the one check left is the parameter `UNDOC_OPS` (spec/44_undocumented_ops.md R118).
-/

namespace Sys2Proof

/-- The three instructions the source counts but does not describe: `LD_I`, `RND`, `LD_ST_VX` (44_undocumented_ops.md). -/
def Instr.undocumented : Instr → Bool
  | .ldI _ | .rnd _ _ | .ldStVx _ => true
  | .cls | .ret | .jp _ | .call _ | .seImm _ _ | .sneImm _ _ | .seReg _ _ | .ldImm _ _ | .addImm _ _
  | .ldReg _ _ | .or _ _ | .and _ _ | .xor _ _ | .addReg _ _ | .sub _ _ | .shr _ _ | .subn _ _ | .shl _ _
  | .sneReg _ _ | .jpV0 _ | .drw _ _ _ | .skp _ | .sknp _ | .ldVxDt _ | .ldVxK _ | .ldDtVx _ | .addI _
  | .ldF _ | .ldB _ | .ldMemVx _ | .ldVxMem _ => false

/-- The instruction exists under this value of `UNDOC_OPS` (R118). -/
def Instr.wellFormed (u : UndocOps) (i : Instr) : Bool :=
  match u with
  | .implemented => true
  | .fatal => !i.undocumented

end Sys2Proof
end

