-- ==== Sys2Proof/Decode.lean ====
section
/-!
DEFINITION. Decoding and encoding (spec/30_encoding.md R50 to R57, spec/20_memory.md R33). `decode` is total: every 16-bit
word is exactly one instruction or is rejected by name. `encode` is written from the same opcode map, R55.
-/

namespace Sys2Proof

/-- Why bytes are no instruction. -/
inductive Rejection where
  /-- `Decode(w)` yields `Unrecognized` (R54, R56) -/
  | unrecognized (w : Word)
  /-- fewer than two bytes were given: an instruction is one 16-bit word (R50). The machine always gives two. -/
  | truncated
  deriving DecidableEq, Repr

/-- The word of two consecutive bytes: the byte at the lower address is bits 15 to 8 (R33, R51). -/
def wordOfBytes (hi lo : Byte) : Word := hi ++ lo

/-- Bits 15 to 12, the primary opcode `t` (R52). -/
def fieldT (w : Word) : BitVec 4 := w.extractLsb' 12 4

/-- Bits 11 to 8, the `x` field (R52). -/
def fieldX (w : Word) : RegNum := w.extractLsb' 8 4

/-- Bits 7 to 4, the `y` field (R52). -/
def fieldY (w : Word) : RegNum := w.extractLsb' 4 4

/-- Bits 3 to 0, the `n` field (R52). -/
def fieldN (w : Word) : Nibble := w.extractLsb' 0 4

/-- Bits 7 to 0, the `nn` field (R52). -/
def fieldNN (w : Word) : Byte := w.extractLsb' 0 8

/-- Bits 11 to 0, the `nnn` field (R52). -/
def fieldNNN (w : Word) : Addr12 := w.extractLsb' 0 12

/-- An instruction that exists only when `UNDOC_OPS` is `implemented` (R54, R118). -/
def whenImplemented (u : UndocOps) (w : Word) (i : Instr) : Except Rejection Instr :=
  match u with
  | .implemented => .ok i
  | .fatal => .error (.unrecognized w)

/-- Family 8, by the low nibble (R54). -/
def decodeFamily8 (w : Word) : Except Rejection Instr :=
  match fieldN w with
  | 0x0#4 => .ok (.ldReg (fieldX w) (fieldY w))
  | 0x1#4 => .ok (.or (fieldX w) (fieldY w))
  | 0x2#4 => .ok (.and (fieldX w) (fieldY w))
  | 0x3#4 => .ok (.xor (fieldX w) (fieldY w))
  | 0x4#4 => .ok (.addReg (fieldX w) (fieldY w))
  | 0x5#4 => .ok (.sub (fieldX w) (fieldY w))
  | 0x6#4 => .ok (.shr (fieldX w) (fieldY w))
  | 0x7#4 => .ok (.subn (fieldX w) (fieldY w))
  | 0xE#4 => .ok (.shl (fieldX w) (fieldY w))
  | _ => .error (.unrecognized w)

/-- Family E, by the low byte (R54). -/
def decodeFamilyE (w : Word) : Except Rejection Instr :=
  match fieldNN w with
  | 0x9E#8 => .ok (.skp (fieldX w))
  | 0xA1#8 => .ok (.sknp (fieldX w))
  | _ => .error (.unrecognized w)

/-- Family F, by the low byte (R54). -/
def decodeFamilyF (u : UndocOps) (w : Word) : Except Rejection Instr :=
  match fieldNN w with
  | 0x07#8 => .ok (.ldVxDt (fieldX w))
  | 0x0A#8 => .ok (.ldVxK (fieldX w))
  | 0x15#8 => .ok (.ldDtVx (fieldX w))
  | 0x18#8 => whenImplemented u w (.ldStVx (fieldX w))
  | 0x1E#8 => .ok (.addI (fieldX w))
  | 0x29#8 => .ok (.ldF (fieldX w))
  | 0x33#8 => .ok (.ldB (fieldX w))
  | 0x55#8 => .ok (.ldMemVx (fieldX w))
  | 0x65#8 => .ok (.ldVxMem (fieldX w))
  | _ => .error (.unrecognized w)

/-- `Decode(w)`, the algorithm of R54, on the top nibble first. -/
def decode (u : UndocOps) (w : Word) : Except Rejection Instr :=
  match fieldT w with
  | 0x0#4 => if w = 0x00E0#16 then .ok .cls else if w = 0x00EE#16 then .ok .ret else .error (.unrecognized w)
  | 0x1#4 => .ok (.jp (fieldNNN w))
  | 0x2#4 => .ok (.call (fieldNNN w))
  | 0x3#4 => .ok (.seImm (fieldX w) (fieldNN w))
  | 0x4#4 => .ok (.sneImm (fieldX w) (fieldNN w))
  | 0x5#4 => if fieldN w = 0x0#4 then .ok (.seReg (fieldX w) (fieldY w)) else .error (.unrecognized w)
  | 0x6#4 => .ok (.ldImm (fieldX w) (fieldNN w))
  | 0x7#4 => .ok (.addImm (fieldX w) (fieldNN w))
  | 0x8#4 => decodeFamily8 w
  | 0x9#4 => if fieldN w = 0x0#4 then .ok (.sneReg (fieldX w) (fieldY w)) else .error (.unrecognized w)
  | 0xA#4 => whenImplemented u w (.ldI (fieldNNN w))
  | 0xB#4 => .ok (.jpV0 (fieldNNN w))
  | 0xC#4 => whenImplemented u w (.rnd (fieldX w) (fieldNN w))
  | 0xD#4 => .ok (.drw (fieldX w) (fieldY w) (fieldN w))
  | 0xE#4 => decodeFamilyE w
  | _ => decodeFamilyF u w

/-- The instruction at the head of a byte sequence, with the bytes that follow it (R50: always two bytes). -/
def decodeBytes (u : UndocOps) : List Byte → Except Rejection (Instr × List Byte)
  | hi :: lo :: rest =>
    match decode u (wordOfBytes hi lo) with
    | .ok i => .ok (i, rest)
    | .error r => .error r
  | _ => .error .truncated

/-- A word of format `ADDR` (R52). -/
def wordAddr (t : BitVec 4) (nnn : Addr12) : Word := t ++ nnn

/-- A word of format `REG_IMM` or `REG_OP` (R52). -/
def wordRegByte (t : BitVec 4) (x : RegNum) (nn : Byte) : Word := t ++ x ++ nn

/-- A word of format `REG_REG` or `REG_REG_N` (R52). -/
def wordRegReg (t : BitVec 4) (x y : RegNum) (n : Nibble) : Word := t ++ x ++ y ++ n

/-- The word of an instruction, by the opcode map R55. -/
def encode : Instr → Word
  | .cls => 0x00E0#16
  | .ret => 0x00EE#16
  | .jp nnn => wordAddr 0x1 nnn
  | .call nnn => wordAddr 0x2 nnn
  | .seImm x nn => wordRegByte 0x3 x nn
  | .sneImm x nn => wordRegByte 0x4 x nn
  | .seReg x y => wordRegReg 0x5 x y 0x0
  | .ldImm x nn => wordRegByte 0x6 x nn
  | .addImm x nn => wordRegByte 0x7 x nn
  | .ldReg x y => wordRegReg 0x8 x y 0x0
  | .or x y => wordRegReg 0x8 x y 0x1
  | .and x y => wordRegReg 0x8 x y 0x2
  | .xor x y => wordRegReg 0x8 x y 0x3
  | .addReg x y => wordRegReg 0x8 x y 0x4
  | .sub x y => wordRegReg 0x8 x y 0x5
  | .shr x y => wordRegReg 0x8 x y 0x6
  | .subn x y => wordRegReg 0x8 x y 0x7
  | .shl x y => wordRegReg 0x8 x y 0xE
  | .sneReg x y => wordRegReg 0x9 x y 0x0
  | .ldI nnn => wordAddr 0xA nnn
  | .jpV0 nnn => wordAddr 0xB nnn
  | .rnd x nn => wordRegByte 0xC x nn
  | .drw x y n => wordRegReg 0xD x y n
  | .skp x => wordRegByte 0xE x 0x9E
  | .sknp x => wordRegByte 0xE x 0xA1
  | .ldVxDt x => wordRegByte 0xF x 0x07
  | .ldVxK x => wordRegByte 0xF x 0x0A
  | .ldDtVx x => wordRegByte 0xF x 0x15
  | .ldStVx x => wordRegByte 0xF x 0x18
  | .addI x => wordRegByte 0xF x 0x1E
  | .ldF x => wordRegByte 0xF x 0x29
  | .ldB x => wordRegByte 0xF x 0x33
  | .ldMemVx x => wordRegByte 0xF x 0x55
  | .ldVxMem x => wordRegByte 0xF x 0x65

/-- The two bytes of a word in memory order, high byte first (R33, R51). -/
def bytesOfWord (w : Word) : List Byte := [w.extractLsb' 8 8, w.extractLsb' 0 8]

/-- The bytes of an instruction in memory order (R50, R51). -/
def encodeBytes (i : Instr) : List Byte := bytesOfWord (encode i)

/-- The word whose low `nbits` bits are those of `w` and whose other bits are 0. -/
def wordOfTable (nbits w : Nat) : Word := BitVec.ofNat 16 (w % 2 ^ nbits)

/-- The instruction the decoder reads, under the default `UNDOC_OPS`, from the bytes of a table word laid out in memory
order; `none` where it rejects them. -/
def decodeTableWord (nbits w : Nat) : Option Instr :=
  match decodeBytes .implemented (bytesOfWord (wordOfTable nbits w)) with
  | .ok (i, _) => some i
  | .error _ => none

end Sys2Proof
end

