-- ==== Sys2Proof/Machine/State.lean ====
section
/-!
DEFINITION. The state of the machine (spec/10_state.md R10), its reset value (R26), what an operation returns, and the
host's moves (spec/70_reset_and_hazards.md R161). State is plain data.
-/

namespace Sys2Proof.Machine

/-- Memory (R18, R30): the bytes that differ from the reset contents, addresses strictly rising (Memory.wf in Ops.lean). -/
abbrev Memory := List Host.Cell

/-- The framebuffer (R19): 32 rows of 64 cells, `fb[row][column]`, true is on. -/
abbrev Framebuffer := Vector (Vector Bool 64) 32

/-- The fault latch's code (R21, R120). -/
inductive FaultCode where
  /-- code 0: the session is healthy -/
  | none
  /-- code 1: the decoder rejects the fetched word (R121) -/
  | unrecognizedOpcode
  /-- code 2: `RET` with an empty stack (R122) -/
  | stackUnderflow
  /-- code 3: `LD_B`, `LD_MEM_VX`, `LD_VX_MEM` or `DRW` would access an address above 4095 (R123) -/
  | memoryOutOfBounds
  /-- code 4: `CALL` with a full stack (R124) -/
  | stackOverflow
  /-- code 5: a byte of the instruction lies above address 4095 (R125) -/
  | fetchOutOfBounds
  /-- code 6: `SKP` or `SKNP` with a key number above 15 (R126) -/
  | keyIndexOutOfRange
  deriving DecidableEq, Repr

/-- What the last operation returned to its caller: the outputs of R24, R58, R132, R140 and R153. DESIGN CHOICE (log 5):
the step function answers a state only, so the returned value is kept in the state. -/
inductive StepResult where
  /-- the operation returns nothing (`Reset`, `SetRegister`, `TimerTick`, `AckFramebuffer`), or none was performed yet -/
  | none
  /-- `Completed(dirty, waiting)` of a `Step` -/
  | completed (dirty waiting : Bool)
  /-- `Faulted(code)` of a `Step` -/
  | faulted (code : FaultCode)
  /-- `Ok` of `LoadProgram` -/
  | loadOk
  /-- `Error(ProgramTooLarge)` of `LoadProgram` -/
  | programTooLarge
  deriving DecidableEq, Repr

/-- One move of the run (R161): a host operation, or the host's call of `Step` with the inputs it supplies. -/
inductive HostMove where
  /-- `Step(keys, rnd)` (R58) -/
  | step (keys : KeyVector) (rnd : Byte)
  /-- `Reset` (R150) -/
  | reset
  /-- `LoadProgram(bytes)` (R153) -/
  | loadProgram (bytes : List Byte)
  /-- `SetRegister(i, v)` (R154) -/
  | setRegister (i : RegNum) (v : Byte)
  /-- `TimerTick` (R135) -/
  | timerTick
  /-- `AckFramebuffer` (R139) -/
  | ackFramebuffer
  deriving DecidableEq, Repr

/-- The state: first the architectural state of R10, then the parameters of the step relation (R4, R22, R23), then the
model's own fields (log 3, log 4, log 5). -/
structure State where
  /-- `V[0]` .. `V[15]` (R11) -/
  v : Vector Byte 16
  /-- the index register `I` (R15) -/
  index : Word
  /-- the program counter (R14) -/
  pc : Word
  /-- the call stack, newest entry first (R16); its length is `sp` (log 12) -/
  stack : List Word
  /-- the delay timer `DT` (R17) -/
  dt : Byte
  /-- the sound timer `ST` (R17) -/
  st : Byte
  /-- memory (R18) -/
  mem : Memory
  /-- the framebuffer (R19) -/
  fb : Framebuffer
  /-- the framebuffer changed flag `fb_changed` (R20) -/
  fbChanged : Bool
  /-- `fault_code` (R21) -/
  faultCode : FaultCode
  /-- `fault_info` (R21) -/
  faultInfo : Nat
  /-- the configuration (R4), fixed at construction -/
  cfg : Config
  /-- the keyboard vector handed to the current `Step` (R22) -/
  keys : KeyVector
  /-- the random byte handed to the current `Step` (R23) -/
  rnd : Byte
  /-- the host's next moves, oldest first; when it is empty the host calls `Step` with free inputs (log 3, log 4) -/
  schedule : List HostMove
  /-- how many `Step` inputs have been free values so far (log 3) -/
  freeCount : Nat
  /-- what the last operation returned (log 5) -/
  result : StepResult
  deriving DecidableEq, Repr

/-- Why a step would stop with a fault of the host's interface: never, so there is no constructor. Every fault of the spec
is taken: it sets the fault latch and the step answers the next state (R127, R128; log 1), and a `Step` while the latch is
set answers the unchanged state (R129). Raised by nobody; safe. -/
inductive Fault where
  deriving DecidableEq, Repr

/-- Why a step would be refused. -/
inductive Refusal where
  /-- an instruction without a meaning, raised by `exec` alone; safe. No arm of this model raises it. -/
  | notModelled (mnemonic : String)
  deriving DecidableEq, Repr

/-- The reset state (R26, R150, R151), with the default configuration. `keys`, `rnd`, `schedule`, `freeCount` and `result`
are not the spec's state; their values are DESIGN CHOICEs (log 3, log 5). -/
def State.reset : State :=
  { v := Vector.replicate 16 0#8
    index := 0#16
    pc := 0x200#16
    stack := []
    dt := 0#8
    st := 0#8
    mem := []
    fb := Vector.replicate 32 (Vector.replicate 64 false)
    fbChanged := false
    faultCode := .none
    faultInfo := 0
    cfg := Config.standard
    keys := 0#16
    rnd := 0#8
    schedule := []
    freeCount := 0
    result := .none }

end Sys2Proof.Machine
end

