-- ==== Sys2Proof/Machine/Ops.lean ====
section
/-!
DEFINITION. The named operations every meaning is built from: memory, registers, call stack, framebuffer, the program
counter's advance, completing a `Step`, and raising a fault.
-/

namespace Sys2Proof.Machine

/-! ### Memory (spec/20_memory.md) -/

/-- The number of valid addresses, `MEM_SIZE` (R3, R30). -/
def memSize : Nat := 4096

/-- What an unlisted address reads as: the reset contents, `FONT` at 0x000 to 0x04F and 0 above (R26, R31; log 30). -/
def memInitial (font : Vector Byte 80) (a : Nat) : Byte :=
  if h : a < 80 then font[a] else 0#8

/-- The listed byte at an address, if any. -/
def memFind : Memory → Nat → Option Byte
  | [], _ => none
  | c :: m, a => if c.1 = a then some c.2 else memFind m a

/-- `mem[a]` (R32); asked only for `a` ≤ 4095. -/
def memGet (font : Vector Byte 80) (m : Memory) (a : Nat) : Byte :=
  (memFind m a).getD (memInitial font a)

/-- Lists a byte at its place in the rising order, in place of the one listed before. -/
def memInsert (a : Nat) (b : Byte) : Memory → Memory
  | [] => [(a, b)]
  | c :: m =>
    if a < c.1 then (a, b) :: c :: m
    else if a = c.1 then (a, b) :: m
    else c :: memInsert a b m

/-- Unlists an address. -/
def memRemove (a : Nat) : Memory → Memory
  | [] => []
  | c :: m => if c.1 = a then memRemove a m else c :: memRemove a m

/-- `mem[a] <- b` (R32) for `a` ≤ 4095, in canonical form; there is no cell above 4095 to write. -/
def memSet (font : Vector Byte 80) (m : Memory) (a : Nat) (b : Byte) : Memory :=
  if a < memSize then
    if b = memInitial font a then memRemove a m else memInsert a b m
  else m

/-- The canonical form: addresses strictly rising, every one valid, and no entry equal to what the unlisted address reads
as, so that equal memories are equal lists. -/
abbrev Memory.wf (font : Vector Byte 80) (m : Memory) : Prop :=
  m.Pairwise (fun c d => c.1 < d.1) ∧ ∀ c ∈ m, c.1 < memSize ∧ c.2 ≠ memInitial font c.1

/-- `mem[a]`; asked only for `a` ≤ 4095 (the bounded accesses below see to it). -/
def State.byteAt (s : State) (a : Nat) : Byte := memGet s.cfg.font s.mem a

/-- `MemRead(a, 1)`: defined only for `a` ≤ 4095 (R32). -/
def State.readByte (s : State) (a : Nat) : Option Byte :=
  if a < memSize then some (s.byteAt a) else none

/-- `MemWrite(a, 1, b)`, for `a` ≤ 4095 (R32). -/
def State.writeByte (s : State) (a : Nat) (b : Byte) : State :=
  { s with mem := memSet s.cfg.font s.mem a b }

/-- All of the `n` addresses from `a` up are valid; the sum is a natural number and is never wrapped (R32, R39). -/
def inBounds (a n : Nat) : Bool := decide (n = 0 ∨ a + n ≤ memSize)

/-- The bytes at `a`, `a + 1`, ... , one per step of the count. -/
def State.bytesFrom (s : State) : Nat → Nat → List Byte
  | _, 0 => []
  | a, n + 1 => s.byteAt a :: s.bytesFrom (a + 1) n

/-- Stores the bytes at `a`, `a + 1`, ... (R34). -/
def State.storeFrom (s : State) : Nat → List Byte → State
  | _, [] => s
  | a, b :: bs => (s.writeByte a b).storeFrom (a + 1) bs

/-- `n` byte reads from `a` up, all or none (R32, R36). -/
def State.readBytes (s : State) (a n : Nat) : Option (List Byte) :=
  if inBounds a n then some (s.bytesFrom a n) else none

/-- Byte writes from `a` up, all or none (R32, R36). -/
def State.writeBytes (s : State) (a : Nat) (bs : List Byte) : Option State :=
  if inBounds a bs.length then some (s.storeFrom a bs) else none

/-! ### Registers (spec/10_state.md R11, R12) -/

/-- `V[x]`. -/
def State.reg (s : State) (x : RegNum) : Byte := s.v[x.toNat]'x.isLt

/-- `V[x] <- b`. -/
def State.setReg (s : State) (x : RegNum) (b : Byte) : State := { s with v := s.v.set x.toNat b x.isLt }

/-- The number of VF, the flag register (R12). -/
def vf : RegNum := 0xF#4

/-! ### Call stack (R16) -/

/-- `sp`, the number of entries (R16). -/
def State.sp (s : State) : Nat := s.stack.length

/-- `stack[k]`, entry 0 the oldest (R6, R16); there is no entry at `sp` and above. -/
def State.stackEntry (s : State) (k : Nat) : Option Word := s.stack.reverse[k]?

/-- `push(a)` (R6). -/
def State.push (s : State) (a : Word) : State := { s with stack := a :: s.stack }

/-- `pop()` (R6): the newest entry and the state without it; nothing when the stack is empty. -/
def State.pop (s : State) : Option (Word × State) :=
  match s.stack with
  | [] => none
  | a :: rest => some (a, { s with stack := rest })

/-! ### Framebuffer (R19) -/

/-- `fb[row][col]`. -/
def fbGet (fb : Framebuffer) (row : Fin 32) (col : Fin 64) : Bool := fb[row][col]

/-- `fb[row][col] <- bit`. -/
def fbSet (fb : Framebuffer) (row : Fin 32) (col : Fin 64) (bit : Bool) : Framebuffer :=
  fb.set row (fb[row].set col bit)

/-- The framebuffer with every cell off. -/
def fbClear : Framebuffer := Vector.replicate 32 (Vector.replicate 64 false)

/-- `fb[row][col]` of a state. -/
def State.cell (s : State) (row : Fin 32) (col : Fin 64) : Bool := fbGet s.fb row col

/-! ### Program counter (R14, R59) -/

/-- `pc <- target`. -/
def State.setPc (s : State) (a : Word) : State := { s with pc := a }

/-- `pc <- pc + 2`, `next` (R6, R59). -/
def State.advance (s : State) : State := s.setPc (s.pc + 2#16)

/-- `pc + 4` if the condition holds, else `pc + 2` (R59). -/
def State.skipIf (s : State) (c : Bool) : State := s.setPc (if c then s.pc + 4#16 else s.pc + 2#16)

/-! ### The end of a `Step` (R24, R58, R127, R128) -/

/-- The `Step` returns `Completed(dirty, waiting)`. -/
def State.completed (s : State) (dirty waiting : Bool) : State := { s with result := .completed dirty waiting }

/-- A completed `Step` that neither draws nor waits, as an outcome. -/
def complete (s : State) : Host.Outcome State Fault Refusal := .next (s.completed false false)

/-- A completed `Step` that touched the framebuffer: `dirty` is 1 (R24). -/
def completeDirty (s : State) : Host.Outcome State Fault Refusal := .next (s.completed true false)

/-- Fault entry, `raise F(info)` (R128): the latch is written and nothing else; the `Step` returns `Faulted(code)`. -/
def State.raised (s : State) (code : FaultCode) (info : Nat) : State :=
  { s with faultCode := code, faultInfo := info, result := .faulted code }

/-- `raise F(info)` as the outcome of a `Step`: the next state, with the latch set (log 1). -/
def raise (s : State) (code : FaultCode) (info : Nat) : Host.Outcome State Fault Refusal := .next (s.raised code info)

/-- `raise MemoryOutOfBounds(max(I, 4096))` (R120, R123): the information is the lowest address above 4095 that the
instruction would access. -/
def raiseMemory (s : State) : Host.Outcome State Fault Refusal :=
  raise s .memoryOutOfBounds (max s.index.toNat memSize)

/-- The number of a fault code (R120). -/
def FaultCode.number : FaultCode → Nat
  | .none => 0
  | .unrecognizedOpcode => 1
  | .stackUnderflow => 2
  | .memoryOutOfBounds => 3
  | .stackOverflow => 4
  | .fetchOutOfBounds => 5
  | .keyIndexOutOfRange => 6

end Sys2Proof.Machine
end

