-- ==== Sys2Proof/Machine/Operands.lean ====
section
/-!
DEFINITION. The operand forms: immediates and addresses widened, register ranges, the memory operand at `I`, keys, decimal
digits, the address of a glyph, and the cells and bits of a sprite.
-/

namespace Sys2Proof.Machine

/-- `zext_16(nnn)` (R53): an address field as a program counter or index value. -/
def addrOf (nnn : Addr12) : Word := nnn.setWidth 16

/-- `zext_16(b)`: a register value as a 16-bit operand (R78, R105). -/
def wordOf (b : Byte) : Word := b.setWidth 16

/-- The natural number in `I`, the base of every data access (R39, R53). -/
def State.base (s : State) : Nat := s.index.toNat

/-! ### The register range `V[0]` .. `V[x]` (R108, R109) -/

/-- How many registers `V[0]` .. `V[x]` are: `x` + 1. -/
def rangeCount (x : RegNum) : Nat := x.toNat + 1

/-- The values of `n` registers from number `k` up. -/
def State.regsFrom (s : State) : Nat → Nat → List Byte
  | _, 0 => []
  | k, n + 1 => s.reg (BitVec.ofNat 4 k) :: s.regsFrom (k + 1) n

/-- Writes the registers from number `k` up, one byte each. -/
def State.setRegsFrom (s : State) : Nat → List Byte → State
  | _, [] => s
  | k, b :: bs => (s.setReg (BitVec.ofNat 4 k) b).setRegsFrom (k + 1) bs

/-! ### Keys (R22, R100, R103, R137) -/

/-- `keys[k]`, for `k` in 0..15, in the vector handed to this `Step`. -/
def State.keyDown (s : State) (k : Nat) : Bool := s.keys.getLsbD k

/-- `V[x]` names a key: its value is at most 15 (R100, R126). -/
def namesKey (k : Byte) : Bool := decide (k.toNat ≤ 15)

/-- The first pressed key among `n` keys from number `k` up. -/
def firstKeyFrom (keys : KeyVector) : Nat → Nat → Option Nat
  | _, 0 => none
  | k, n + 1 => if keys.getLsbD k then some k else firstKeyFrom keys (k + 1) n

/-- The key that the key wait reports, `none` while no key is pressed (R103). -/
def selectKey (sel : KeySelect) (keys : KeyVector) : Option Nat :=
  match sel with
  | .lowest => firstKeyFrom keys 0 16

/-! ### Decimal digits and glyphs (R106, R107) -/

/-- The hundreds, tens and ones digits of a byte, in memory order (R34, R107). -/
def bcdDigits (b : Byte) : List Byte :=
  [BitVec.ofNat 8 (b.toNat / 100), BitVec.ofNat 8 (b.toNat / 10 % 10), BitVec.ofNat 8 (b.toNat % 10)]

/-- The bytes of a glyph, `GLYPH_BYTES` (R3). -/
def glyphBytes : Nat := 5

/-- `V[x] * 5`, the whole 8-bit value multiplied (R106). -/
def glyphAddress (b : Byte) : Word := BitVec.ofNat 16 (b.toNat * glyphBytes)

/-! ### Sprites (R95) -/

/-- The sprite bit of column `c`, 0..7: column 0 is bit 7 of the row's byte. -/
def spriteBit (b : Byte) (c : Nat) : Bool := b.getLsbD (7 - c)

/-- The cell of sprite row `r` and column `c` for a sprite at (`x0`, `y0`): with `DRAW_EDGE` = `wrap`, row
`(y0 + r) mod 32` and column `(x0 + c) mod 64`. -/
def spriteCell (edge : DrawEdge) (x0 y0 : Byte) (r c : Nat) : Fin 32 × Fin 64 :=
  match edge with
  | .wrap => (Fin.ofNat 32 (y0.toNat + r), Fin.ofNat 64 (x0.toNat + c))

end Sys2Proof.Machine
end

