-- ==== Sys2Proof/Machine/Flags.lean ====
section
/-!
DEFINITION. The 8-bit results and the VF flags (spec/41_alu.md R80, spec/10_state.md R12, R13). Every flag is computed from
the operand values before the instruction, and `State.setRegFlag` writes it after the result.
-/

namespace Sys2Proof.Machine

/-- A flag as the byte VF receives: 0 or 1 (R12). -/
def flagByte (f : Bool) : Byte := if f then 1#8 else 0#8

/-- `V[15] <- 1 if f else 0`. -/
def State.setFlag (s : State) (f : Bool) : State := s.setReg vf (flagByte f)

/-- The two writes of a flag-setting instruction, the result first and the flag last (R13). -/
def State.setRegFlag (s : State) (x : RegNum) (b : Byte) (f : Bool) : State := (s.setReg x b).setFlag f

/-- `(a + b) mod 256` (R82, R87). -/
def addByte (a b : Byte) : Byte := BitVec.ofNat 8 (a.toNat + b.toNat)

/-- The carry of an addition: 1 when the unsigned sum exceeds 255 (R87). -/
def addCarry (a b : Byte) : Bool := decide (a.toNat + b.toNat > 255)

/-- `(a + 256 - b) mod 256` (R88, R89). -/
def subByte (a b : Byte) : Byte := BitVec.ofNat 8 (a.toNat + 256 - b.toNat)

/-- The no-borrow flag of `a - b`: 1 when `a` is at least `b` (R88, R89). -/
def subNoBorrow (a b : Byte) : Bool := decide (a.toNat ≥ b.toNat)

/-- `a div 2`, a logical shift right by one (R90). -/
def shrByte (a : Byte) : Byte := BitVec.ofNat 8 (a.toNat / 2)

/-- The bit a shift right displaces, `a mod 2` (R90). -/
def shrBit (a : Byte) : Bool := decide (a.toNat % 2 = 1)

/-- `(a * 2) mod 256`, a shift left by one (R91). -/
def shlByte (a : Byte) : Byte := BitVec.ofNat 8 (a.toNat * 2)

/-- The bit a shift left displaces, `a div 128` (R91). -/
def shlBit (a : Byte) : Bool := decide (a.toNat / 128 = 1)

end Sys2Proof.Machine
end

