-- ==== Sys2Proof/Machine/Alu.lean ====
section
/-!
DEFINITION. The meanings of spec/41_alu.md: load and add immediate, copy, logic, add, subtract and shifts. Every one ends
with `pc <- next` and none can fault (R80).
-/

namespace Sys2Proof.Machine

/-- `LD Vx, nn` (R81). -/
def execLdImm (x : RegNum) (nn : Byte) (s : State) : Host.Outcome State Fault Refusal :=
  complete (s.setReg x nn).advance

/-- `ADD Vx, nn` (R82): VF is not written as a flag. -/
def execAddImm (x : RegNum) (nn : Byte) (s : State) : Host.Outcome State Fault Refusal :=
  complete (s.setReg x (addByte (s.reg x) nn)).advance

/-- `LD Vx, Vy` (R83). -/
def execLdReg (x y : RegNum) (s : State) : Host.Outcome State Fault Refusal :=
  complete (s.setReg x (s.reg y)).advance

/-- `OR Vx, Vy` (R84). -/
def execOr (x y : RegNum) (s : State) : Host.Outcome State Fault Refusal :=
  complete (s.setReg x (s.reg x ||| s.reg y)).advance

/-- `AND Vx, Vy` (R85). -/
def execAnd (x y : RegNum) (s : State) : Host.Outcome State Fault Refusal :=
  complete (s.setReg x (s.reg x &&& s.reg y)).advance

/-- `XOR Vx, Vy` (R86). -/
def execXor (x y : RegNum) (s : State) : Host.Outcome State Fault Refusal :=
  complete (s.setReg x (s.reg x ^^^ s.reg y)).advance

/-- `ADD Vx, Vy` (R87): VF receives the carry, last. -/
def execAddReg (x y : RegNum) (s : State) : Host.Outcome State Fault Refusal :=
  complete (s.setRegFlag x (addByte (s.reg x) (s.reg y)) (addCarry (s.reg x) (s.reg y))).advance

/-- `SUB Vx, Vy` (R88): VF receives the no-borrow flag of `Vx - Vy`, last. -/
def execSub (x y : RegNum) (s : State) : Host.Outcome State Fault Refusal :=
  complete (s.setRegFlag x (subByte (s.reg x) (s.reg y)) (subNoBorrow (s.reg x) (s.reg y))).advance

/-- `SUBN Vx, Vy` (R89): VF receives the no-borrow flag of `Vy - Vx`, last. -/
def execSubn (x y : RegNum) (s : State) : Host.Outcome State Fault Refusal :=
  complete (s.setRegFlag x (subByte (s.reg y) (s.reg x)) (subNoBorrow (s.reg y) (s.reg x))).advance

/-- `SHR Vx` (R90): the `y` field is ignored (R57); VF receives the old bit 0, last. -/
def execShr (x _y : RegNum) (s : State) : Host.Outcome State Fault Refusal :=
  complete (s.setRegFlag x (shrByte (s.reg x)) (shrBit (s.reg x))).advance

/-- `SHL Vx` (R91): the `y` field is ignored (R57); VF receives the old bit 7, last. -/
def execShl (x _y : RegNum) (s : State) : Host.Outcome State Fault Refusal :=
  complete (s.setRegFlag x (shlByte (s.reg x)) (shlBit (s.reg x))).advance

end Sys2Proof.Machine
end

