-- ==== Sys2Proof/Machine/ControlFlow.lean ====
section
/-!
DEFINITION. The meanings of spec/40_control_flow.md: clear display, return, jump, call, the four compare-and-skip
instructions and jump-with-offset.
-/

namespace Sys2Proof.Machine

/-- `CLS` (R70). -/
def execCls (s : State) : Host.Outcome State Fault Refusal :=
  completeDirty ({ s with fb := fbClear, fbChanged := true }).advance

/-- `RET` (R71): continues at the popped entry plus 2, since the entry is the address of the call (the spec's decision D5). -/
def execRet (s : State) : Host.Outcome State Fault Refusal :=
  match s.pop with
  | none => raise s .stackUnderflow 0
  | some (a, s') => complete (s'.setPc (a + 2#16))

/-- `JP nnn` (R72). -/
def execJp (nnn : Addr12) (s : State) : Host.Outcome State Fault Refusal :=
  complete (s.setPc (addrOf nnn))

/-- `CALL nnn` (R73): pushes the address of the call itself (decision D5). -/
def execCall (nnn : Addr12) (s : State) : Host.Outcome State Fault Refusal :=
  if s.sp < s.cfg.stackDepth then complete ((s.push s.pc).setPc (addrOf nnn))
  else raise s .stackOverflow 0

/-- `SE Vx, nn` (R74). -/
def execSeImm (x : RegNum) (nn : Byte) (s : State) : Host.Outcome State Fault Refusal :=
  complete (s.skipIf (s.reg x == nn))

/-- `SNE Vx, nn` (R75). -/
def execSneImm (x : RegNum) (nn : Byte) (s : State) : Host.Outcome State Fault Refusal :=
  complete (s.skipIf (s.reg x != nn))

/-- `SE Vx, Vy` (R76). -/
def execSeReg (x y : RegNum) (s : State) : Host.Outcome State Fault Refusal :=
  complete (s.skipIf (s.reg x == s.reg y))

/-- `SNE Vx, Vy` (R77). -/
def execSneReg (x y : RegNum) (s : State) : Host.Outcome State Fault Refusal :=
  complete (s.skipIf (s.reg x != s.reg y))

/-- `JP V0, nnn` (R78): the sum is not reduced to 12 bits. -/
def execJpV0 (nnn : Addr12) (s : State) : Host.Outcome State Fault Refusal :=
  complete (s.setPc (wordOf (s.reg 0#4) + addrOf nnn))

end Sys2Proof.Machine
end

