-- ==== Sys2Proof/Machine/Draw.lean ====
section
/-!
DEFINITION. The draw instruction (spec/42_draw.md R95): the loop over the sprite's rows and columns, each pixel XORed into
its cell, and the collision collected on the way.
-/

namespace Sys2Proof.Machine

/-- One pixel: XORs the bit into its cell and notes a cell that goes from on to off. -/
def plotPixel (p : Framebuffer × Bool) (at' : Fin 32 × Fin 64) (bit : Bool) : Framebuffer × Bool :=
  (fbSet p.1 at'.1 at'.2 (fbGet p.1 at'.1 at'.2 ^^ bit), p.2 || (bit && fbGet p.1 at'.1 at'.2))

/-- The columns `c`, `c + 1`, ... of sprite row `r`, whose byte is `b`. -/
def drawColumns (edge : DrawEdge) (x0 y0 : Byte) (r : Nat) (b : Byte) : Nat → Nat → Framebuffer × Bool → Framebuffer × Bool
  | _, 0, p => p
  | c, k + 1, p => drawColumns edge x0 y0 r b (c + 1) k (plotPixel p (spriteCell edge x0 y0 r c) (spriteBit b c))

/-- The sprite rows `r`, `r + 1`, ... , one byte each. -/
def drawRows (edge : DrawEdge) (x0 y0 : Byte) : Nat → List Byte → Framebuffer × Bool → Framebuffer × Bool
  | _, [], p => p
  | r, b :: bs, p => drawRows edge x0 y0 (r + 1) bs (drawColumns edge x0 y0 r b 0 8 p)

/-- `DRW Vx, Vy, n` (R95): the position is read before VF is written, the bounds are checked before any cell is touched, and
`fb_changed` is raised unconditionally. -/
def execDrw (x y : RegNum) (n : Nibble) (s : State) : Host.Outcome State Fault Refusal :=
  match s.readBytes s.base n.toNat with
  | none => raiseMemory s
  | some rows =>
    let p := drawRows s.cfg.drawEdge (s.reg x) (s.reg y) 0 rows (s.fb, false)
    completeDirty (({ s with fb := p.1, fbChanged := true }).setFlag p.2).advance

end Sys2Proof.Machine
end

