-- ==== Sys2Proof/Machine/Input.lean ====
section
/-!
DEFINITION. The meanings of spec/43_timer_memory_input.md that read the keys or the delay timer: the two key skips, get and
set delay timer, await key press.
-/

namespace Sys2Proof.Machine

/-- `SKP Vx` (R100). -/
def execSkp (x : RegNum) (s : State) : Host.Outcome State Fault Refusal :=
  if namesKey (s.reg x) then complete (s.skipIf (s.keyDown (s.reg x).toNat))
  else raise s .keyIndexOutOfRange (s.reg x).toNat

/-- `SKNP Vx` (R101). -/
def execSknp (x : RegNum) (s : State) : Host.Outcome State Fault Refusal :=
  if namesKey (s.reg x) then complete (s.skipIf (!s.keyDown (s.reg x).toNat))
  else raise s .keyIndexOutOfRange (s.reg x).toNat

/-- `LD Vx, DT` (R102). -/
def execLdVxDt (x : RegNum) (s : State) : Host.Outcome State Fault Refusal :=
  complete (s.setReg x s.dt).advance

/-- `LD Vx, K` (R103): while no key is pressed the `Step` completes with `waiting` = 1 and changes no state. -/
def execLdVxK (x : RegNum) (s : State) : Host.Outcome State Fault Refusal :=
  .next (match selectKey s.cfg.keySelect s.keys with
    | none => s.completed false true
    | some k => ((s.setReg x (BitVec.ofNat 8 k)).advance).completed false false)

/-- `LD DT, Vx` (R104). -/
def execLdDtVx (x : RegNum) (s : State) : Host.Outcome State Fault Refusal :=
  complete ({ s with dt := s.reg x }).advance

end Sys2Proof.Machine
end

