-- ==== Sys2Proof/Machine/Transfer.lean ====
section
/-!
DEFINITION. The meanings of spec/43_timer_memory_input.md that compute `I` or move bytes between registers and memory: add
to index, glyph address, decimal digits, register dump and register load. `I` is never modified by the last three.
-/

namespace Sys2Proof.Machine

/-- `ADD I, Vx` (R105): 16-bit addition, VF not written. -/
def execAddI (x : RegNum) (s : State) : Host.Outcome State Fault Refusal :=
  complete ({ s with index := s.index + wordOf (s.reg x) }).advance

/-- `LD F, Vx` (R106). -/
def execLdF (x : RegNum) (s : State) : Host.Outcome State Fault Refusal :=
  complete ({ s with index := glyphAddress (s.reg x) }).advance

/-- `LD B, Vx` (R107). -/
def execLdB (x : RegNum) (s : State) : Host.Outcome State Fault Refusal :=
  match s.writeBytes s.base (bcdDigits (s.reg x)) with
  | none => raiseMemory s
  | some s' => complete s'.advance

/-- `LD [I], Vx` (R108): stores `V[0]` .. `V[x]`. -/
def execLdMemVx (x : RegNum) (s : State) : Host.Outcome State Fault Refusal :=
  match s.writeBytes s.base (s.regsFrom 0 (rangeCount x)) with
  | none => raiseMemory s
  | some s' => complete s'.advance

/-- `LD Vx, [I]` (R109): loads `V[0]` .. `V[x]`. -/
def execLdVxMem (x : RegNum) (s : State) : Host.Outcome State Fault Refusal :=
  match s.readBytes s.base (rangeCount x) with
  | none => raiseMemory s
  | some bs => complete (s.setRegsFrom 0 bs).advance

end Sys2Proof.Machine
end

