-- ==== Sys2Proof/Machine/Undocumented.lean ====
section
/-!
DEFINITION. The meanings of spec/44_undocumented_ops.md: the three instructions the source counts but does not describe.
They exist when `UNDOC_OPS` is `implemented`; otherwise the decoder rejects their words (R118).
-/

namespace Sys2Proof.Machine

/-- `LD I, nnn` (R115). -/
def execLdI (nnn : Addr12) (s : State) : Host.Outcome State Fault Refusal :=
  complete ({ s with index := addrOf nnn }).advance

/-- `RND Vx, nn` (R116): the random byte is the input `rnd` of this `Step`. -/
def execRnd (x : RegNum) (nn : Byte) (s : State) : Host.Outcome State Fault Refusal :=
  complete (s.setReg x (s.rnd &&& nn)).advance

/-- `LD ST, Vx` (R117). -/
def execLdStVx (x : RegNum) (s : State) : Host.Outcome State Fault Refusal :=
  complete ({ s with st := s.reg x }).advance

end Sys2Proof.Machine
end

