-- ==== Sys2Proof/Machine/HostOps.lean ====
section
/-!
DEFINITION. The host operations other than `Step` (spec/70_reset_and_hazards.md R150 to R154, R161, spec/60_exceptions.md
R135, R139). Each acts on the state whether or not the fault latch is set (R129).
-/

namespace Sys2Proof.Machine

/-- `PROGRAM_BASE` (R3). -/
def programBase : Nat := 0x200

/-- `MAX_PROGRAM` (R3). -/
def maxProgram : Nat := 3584

/-- `Reset` (R150): every piece of architectural state to its reset value. The configuration is fixed at construction (R4),
and the inputs, the schedule and the count are not the core's, so they stay (log 27). -/
def hostReset (s : State) : State :=
  { State.reset with
    cfg := s.cfg
    keys := s.keys
    rnd := s.rnd
    schedule := s.schedule
    freeCount := s.freeCount
    result := .none }

/-- `LoadProgram(bytes)` (R153): all of it or, when it does not fit, none of it. -/
def hostLoadProgram (bytes : List Byte) (s : State) : State :=
  if bytes.length > maxProgram then { s with result := .programTooLarge }
  else { s.storeFrom programBase bytes with result := .loadOk }

/-- `SetRegister(i, v)` (R154). -/
def hostSetRegister (i : RegNum) (v : Byte) (s : State) : State :=
  { s.setReg i v with result := .none }

/-- A timer's value after one tick: a timer at 0 stays 0 (R135). -/
def tickTimer (t : Byte) : Byte := if t = 0#8 then 0#8 else t - 1#8

/-- `TimerTick` (R135). -/
def hostTimerTick (s : State) : State :=
  { s with dt := tickTimer s.dt, st := tickTimer s.st, result := .none }

/-- `AckFramebuffer` (R139). -/
def hostAckFramebuffer (s : State) : State :=
  { s with fbChanged := false, result := .none }

end Sys2Proof.Machine
end

