-- ==== Sys2Proof/Machine/Cycle.lean ====
section
/-!
DEFINITION. The instruction cycle (spec/30_encoding.md R51, R58), whose turn it is (spec/70_reset_and_hazards.md R161), and
how the host's check places a word for the next fetch.
-/

namespace Sys2Proof.Machine

/-- Fetch (R51): the big-endian word at `pc`; `none` when either byte would lie above address 4095 (R125). -/
def fetchWord (s : State) : Option Word :=
  if inBounds s.pc.toNat 2 then some (wordOfBytes (s.byteAt s.pc.toNat) (s.byteAt (s.pc.toNat + 1))) else none

/-- `Step`, with its inputs already in `keys` and `rnd` (R58): the latch, fetch, decode, execute. While the latch is set the
`Step` returns `Faulted(fault_code)` and changes nothing (R129). -/
def coreStep (s : State) : Host.Outcome State Fault Refusal :=
  if s.faultCode ≠ .none then .next { s with result := .faulted s.faultCode }
  else
    match fetchWord s with
    | none => raise s .fetchOutOfBounds s.pc.toNat
    | some w =>
      match decode s.cfg.undocOps w with
      | .error _ => raise s .unrecognizedOpcode w.toNat
      | .ok i => exec i s

/-- The state in which a `Step` with these inputs begins (R22, R23). -/
def State.withInputs (s : State) (keys : KeyVector) (rnd : Byte) : State := { s with keys := keys, rnd := rnd }

/-- One host move (R161). -/
def perform (m : HostMove) (s : State) : Host.Outcome State Fault Refusal :=
  match m with
  | .step keys rnd => coreStep (s.withInputs keys rnd)
  | .reset => .next (hostReset s)
  | .loadProgram bytes => .next (hostLoadProgram bytes s)
  | .setRegister i v => .next (hostSetRegister i v s)
  | .timerTick => .next (hostTimerTick s)
  | .ackFramebuffer => .next (hostAckFramebuffer s)

/-- The next move and the state without it: the schedule's first, or, when the schedule is empty, a `Step` whose inputs are
free values (log 3). -/
def nextMove (s : State) : HostMove × State :=
  match s.schedule with
  | [] => (.step (Config.freeKeys s.freeCount) (Config.freeRnd s.freeCount), { s with freeCount := s.freeCount + 1 })
  | m :: rest => (m, { s with schedule := rest })

/-- One transition of core and host together: the next move is performed, whole, before any other (R5, R40, R41). -/
def turn (s : State) : Host.Outcome State Fault Refusal :=
  perform (nextMove s).1 (nextMove s).2

/-- The schedule from its first `Step` on. -/
def scheduleFromStep : List HostMove → List HostMove
  | [] => []
  | m :: rest =>
    match m with
    | .step _ _ => m :: rest
    | _ => scheduleFromStep rest

/-- The state whose very next turn fetches `w` (log 28): the word at `pc`, the latch clear, the next move a `Step`; a `pc`
from which nothing can be fetched goes to the program base. -/
def placeWord (s : State) (w : Word) : State :=
  let s' : State :=
    { s with
      pc := if inBounds s.pc.toNat 2 then s.pc else 0x200#16
      faultCode := .none
      faultInfo := 0
      schedule := scheduleFromStep s.schedule }
  s'.storeFrom s'.pc.toNat (bytesOfWord w)

end Sys2Proof.Machine
end

