-- ==== Sys2Proof/Machine/Step.lean ====
section
/-!
DEFINITION. The step of the machine and the host's placing of an instruction, each one call of Cycle.lean.
-/

namespace Sys2Proof.Machine

/-- One step: one move of the host or, which is the rule, one `Step` of the core (R58, R161). -/
def step (s : State) : Host.Outcome State Fault Refusal := Sys2Proof.Machine.turn s

/-- `s` with the instruction of a table word stored where `step` fetches its next instruction, so that the very next step
runs it. -/
def State.withFetchWord (s : State) (nbits w : Nat) : State :=
  Sys2Proof.Machine.placeWord s (Sys2Proof.wordOfTable nbits w)

end Sys2Proof.Machine
end

