-- ==== Sys2Proof/Safety.lean ====
section
/-!
DEFINITION. The terms the statements use: the machine's invariant (spec/10_state.md R27), the frame of an instruction, and the
spec's tables that speak of all instructions at once (the new `pc` of spec/30_encoding.md R59, the faults of
spec/60_exceptions.md R120 and their priority R131, the flag writers of spec/10_state.md R12).
-/

namespace Sys2Proof.Machine

/-! ### The invariant -/

/-- What holds in every reachable state (R27), with the canonical form of memory and an empty latch's information 0. -/
structure State.Inv (s : State) : Prop where
  /-- `sp` ≤ `STACK_DEPTH` -/
  depth : s.sp ≤ s.cfg.stackDepth
  /-- `pc` ≤ 0x10FE -/
  pcBound : s.pc.toNat ≤ 0x10FE
  /-- every stack entry is the address of a call, at most 0xFFE -/
  entries : ∀ a ∈ s.stack, a.toNat ≤ 0xFFE
  /-- equal memories are equal lists -/
  canonical : Memory.wf s.cfg.font s.mem
  /-- a healthy session has no fault information (R26, R128) -/
  healthy : s.faultCode = .none → s.faultInfo = 0

/-! ### Frames -/

/-- Every register outside `dst` is unchanged. -/
def KeepsRegs (dst : List RegNum) (s t : State) : Prop := ∀ r, r ∉ dst → t.reg r = s.reg r

/-- Every byte of memory reads as before. -/
def KeepsMemory (s t : State) : Prop := ∀ a, t.readByte a = s.readByte a

/-- Every byte of memory outside the `n` bytes from `base` up reads as before. -/
def KeepsMemoryOutside (base n : Nat) (s t : State) : Prop :=
  ∀ a, (a < base ∨ base + n ≤ a) → t.readByte a = s.readByte a

/-- The state `s` after `raise code(info)`: the latch is set, the `Step` returns `Faulted(code)`, and everything else is as
before (R127, R128). -/
def latched (code : FaultCode) (info : Nat) (s : State) : State :=
  { s with faultCode := code, faultInfo := info, result := .faulted code }

/-! ### Encoding -/

/-- The word is the instruction's encoding, and the decoder reads it so (R55, `UNDOC_OPS` = `implemented`). -/
def Spells (w : Word) (i : Instr) : Prop := encode i = w ∧ decode .implemented w = .ok i

/-- The unrecognized words, family by family (R56). -/
def listedUnrecognized (u : UndocOps) (w : Word) : Prop :=
  let t := w.toNat / 4096
  let nn := w.toNat % 256
  let n := w.toNat % 16
  (t = 0x0 ∧ w ≠ 0x00E0#16 ∧ w ≠ 0x00EE#16) ∨
  (t = 0x5 ∧ n ≠ 0) ∨
  (t = 0x8 ∧ n ∈ [0x8, 0x9, 0xA, 0xB, 0xC, 0xD, 0xF]) ∨
  (t = 0x9 ∧ n ≠ 0) ∨
  (t = 0xE ∧ nn ∉ [0x9E, 0xA1]) ∨
  (t = 0xF ∧ nn ∉ [0x07, 0x0A, 0x15, 0x18, 0x1E, 0x29, 0x33, 0x55, 0x65]) ∨
  (u = .fatal ∧ (t = 0xA ∨ t = 0xC ∨ (t = 0xF ∧ nn = 0x18)))

/-! ### Tables over all instructions -/

/-- The new `pc` of a completed `Step` (R59). -/
def newPc (i : Instr) (s : State) : Word :=
  match i with
  | .jp nnn | .call nnn => BitVec.ofNat 16 nnn.toNat
  | .ret => match s.stackEntry (s.sp - 1) with
    | some a => a + 2#16
    | none => s.pc
  | .jpV0 nnn => BitVec.ofNat 16 ((s.reg 0#4).toNat + nnn.toNat)
  | .seImm x nn => if s.reg x = nn then s.pc + 4#16 else s.pc + 2#16
  | .sneImm x nn => if s.reg x ≠ nn then s.pc + 4#16 else s.pc + 2#16
  | .seReg x y => if s.reg x = s.reg y then s.pc + 4#16 else s.pc + 2#16
  | .sneReg x y => if s.reg x ≠ s.reg y then s.pc + 4#16 else s.pc + 2#16
  | .skp x => if s.keyDown (s.reg x).toNat = true then s.pc + 4#16 else s.pc + 2#16
  | .sknp x => if s.keyDown (s.reg x).toNat = false then s.pc + 4#16 else s.pc + 2#16
  | .ldVxK _ => if s.keys = 0#16 then s.pc else s.pc + 2#16
  | .cls | .ldImm _ _ | .addImm _ _ | .ldReg _ _ | .or _ _ | .and _ _ | .xor _ _ | .addReg _ _ | .sub _ _
  | .shr _ _ | .subn _ _ | .shl _ _ | .ldI _ | .rnd _ _ | .drw _ _ _ | .ldVxDt _ | .ldDtVx _ | .ldStVx _
  | .addI _ | .ldF _ | .ldB _ | .ldMemVx _ | .ldVxMem _ => s.pc + 2#16

/-- The memory fault of an instruction that accesses the `n` addresses from `I` up (R120, R123): raised when the highest one
is above 4095, with the lowest one above 4095 as its information. -/
def memoryFault (n : Nat) (s : State) : Option (FaultCode × Nat) :=
  if n > 0 ∧ s.index.toNat + n - 1 > 4095 then some (.memoryOutOfBounds, max s.index.toNat 4096) else none

/-- The one execute fault an instruction can raise, with its information (R120, R131). -/
def executeFault (i : Instr) (s : State) : Option (FaultCode × Nat) :=
  match i with
  | .ret => if s.sp = 0 then some (.stackUnderflow, 0) else none
  | .call _ => if s.sp = s.cfg.stackDepth then some (.stackOverflow, 0) else none
  | .drw _ _ n => memoryFault n.toNat s
  | .ldB _ => memoryFault 3 s
  | .ldMemVx x | .ldVxMem x => memoryFault (x.toNat + 1) s
  | .skp x | .sknp x => if (s.reg x).toNat > 15 then some (.keyIndexOutOfRange, (s.reg x).toNat) else none
  | .cls | .jp _ | .seImm _ _ | .sneImm _ _ | .seReg _ _ | .ldImm _ _ | .addImm _ _ | .ldReg _ _ | .or _ _ | .and _ _
  | .xor _ _ | .addReg _ _ | .sub _ _ | .shr _ _ | .subn _ _ | .shl _ _ | .sneReg _ _ | .ldI _ | .jpV0 _ | .rnd _ _
  | .ldVxDt _ | .ldVxK _ | .ldDtVx _ | .ldStVx _ | .addI _ | .ldF _ => none

/-- The fault of a `Step` of a healthy session: the first in the order fetch, decode, execute (R131). -/
def stepFault (s : State) : Option (FaultCode × Nat) :=
  if s.pc.toNat > 0xFFE then some (.fetchOutOfBounds, s.pc.toNat)
  else
    let w := wordOfBytes (s.byteAt s.pc.toNat) (s.byteAt (s.pc.toNat + 1))
    match decode s.cfg.undocOps w with
    | .error _ => some (.unrecognizedOpcode, w.toNat)
    | .ok i => executeFault i s

/-- The six instructions that write VF as a side effect (R12). -/
def writesFlag : Instr → Bool
  | .addReg _ _ | .sub _ _ | .subn _ _ | .shr _ _ | .shl _ _ | .drw _ _ _ => true
  | .cls | .ret | .jp _ | .call _ | .seImm _ _ | .sneImm _ _ | .seReg _ _ | .ldImm _ _ | .addImm _ _ | .ldReg _ _
  | .or _ _ | .and _ _ | .xor _ _ | .sneReg _ _ | .ldI _ | .jpV0 _ | .rnd _ _ | .skp _ | .sknp _ | .ldVxDt _
  | .ldVxK _ | .ldDtVx _ | .ldStVx _ | .addI _ | .ldF _ | .ldB _ | .ldMemVx _ | .ldVxMem _ => false

/-- The registers an instruction names as its destination (R11), the flag's write not counted. -/
def destinations : Instr → List RegNum
  | .ldImm x _ | .addImm x _ | .ldReg x _ | .or x _ | .and x _ | .xor x _ | .addReg x _ | .sub x _ | .shr x _
  | .subn x _ | .shl x _ | .rnd x _ | .ldVxDt x | .ldVxK x => [x]
  | .ldVxMem x => (List.range (x.toNat + 1)).map (BitVec.ofNat 4)
  | .cls | .ret | .jp _ | .call _ | .seImm _ _ | .sneImm _ _ | .seReg _ _ | .sneReg _ _ | .ldI _ | .jpV0 _ | .drw _ _ _
  | .skp _ | .sknp _ | .ldDtVx _ | .ldStVx _ | .addI _ | .ldF _ | .ldB _ | .ldMemVx _ => []

/-- Bit `(b >> (7 - c)) & 1` of some sprite row falls on this cell and is 1: row `(y0 + r) mod 32`, column
`(x0 + c) mod 64`, the row's byte at `I + r` (R95). -/
def spriteLit (s : State) (x0 y0 : Byte) (n : Nat) (row : Fin 32) (col : Fin 64) : Prop :=
  ∃ r c b, r < n ∧ c < 8 ∧ row.val = (y0.toNat + r) % 32 ∧ col.val = (x0.toNat + c) % 64 ∧
    s.readByte (s.index.toNat + r) = some b ∧ b.toNat / 2 ^ (7 - c) % 2 = 1

end Sys2Proof.Machine
end

