-- ==== Sys2Proof/Certificates/Slice0/Obligations.lean ====
section
/-!
DEFINITION. The statements for the provers, each from a numbered rule of spec/. `exec i s` is the execute phase of the
instruction cycle, `step s` one move of the run. That a fault shows as a next state, that a host operation is a move of a
schedule, and that the value an operation returns stands in `result` is the model's representation (log 1, 2, 4, 5); what the
core's state becomes is the rules'. D<n> and G<n> in a docstring name a decision or a piece of general knowledge that the
rule itself marks as the spec's own (spec/92_eei_decisions.md, spec/93_implementation_defined.md).
-/

open Sys2Proof Sys2Proof.Machine

/-! ## Encoding -/

/-- R54, R55, R57, R118: the decoder reads the encoder's word of every instruction that exists, every field at every value. -/
def Obligations.DecodeInvertsEncode : Prop :=
  ∀ (u : UndocOps) (i : Instr), i.wellFormed u = true → decode u (encode i) = .ok i

/-- R54, R57, R118: a word that decodes to an instruction is that instruction's word, and the instruction exists. -/
def Obligations.EncodeInvertsDecode : Prop :=
  ∀ (u : UndocOps) (w : Word) (i : Instr), decode u w = .ok i → encode i = w ∧ i.wellFormed u = true

/-- R55: each row of the opcode map by its match and mask, the operands taken from the bits R52 gives each field. -/
def Obligations.OpcodeMapByMatchAndMask : Prop :=
  ∀ w : Word,
    let x : RegNum := w.extractLsb' 8 4
    let y : RegNum := w.extractLsb' 4 4
    let n : Nibble := w.extractLsb' 0 4
    let nn : Byte := w.extractLsb' 0 8
    let nnn : Addr12 := w.extractLsb' 0 12
    (w &&& 0xFFFF#16 = 0x00E0#16 → decode .implemented w = .ok .cls) ∧
    (w &&& 0xFFFF#16 = 0x00EE#16 → decode .implemented w = .ok .ret) ∧
    (w &&& 0xF000#16 = 0x1000#16 → decode .implemented w = .ok (.jp nnn)) ∧
    (w &&& 0xF000#16 = 0x2000#16 → decode .implemented w = .ok (.call nnn)) ∧
    (w &&& 0xF000#16 = 0x3000#16 → decode .implemented w = .ok (.seImm x nn)) ∧
    (w &&& 0xF000#16 = 0x4000#16 → decode .implemented w = .ok (.sneImm x nn)) ∧
    (w &&& 0xF00F#16 = 0x5000#16 → decode .implemented w = .ok (.seReg x y)) ∧
    (w &&& 0xF000#16 = 0x6000#16 → decode .implemented w = .ok (.ldImm x nn)) ∧
    (w &&& 0xF000#16 = 0x7000#16 → decode .implemented w = .ok (.addImm x nn)) ∧
    (w &&& 0xF00F#16 = 0x8000#16 → decode .implemented w = .ok (.ldReg x y)) ∧
    (w &&& 0xF00F#16 = 0x8001#16 → decode .implemented w = .ok (.or x y)) ∧
    (w &&& 0xF00F#16 = 0x8002#16 → decode .implemented w = .ok (.and x y)) ∧
    (w &&& 0xF00F#16 = 0x8003#16 → decode .implemented w = .ok (.xor x y)) ∧
    (w &&& 0xF00F#16 = 0x8004#16 → decode .implemented w = .ok (.addReg x y)) ∧
    (w &&& 0xF00F#16 = 0x8005#16 → decode .implemented w = .ok (.sub x y)) ∧
    (w &&& 0xF00F#16 = 0x8007#16 → decode .implemented w = .ok (.subn x y)) ∧
    (w &&& 0xF00F#16 = 0x8006#16 → decode .implemented w = .ok (.shr x y)) ∧
    (w &&& 0xF00F#16 = 0x800E#16 → decode .implemented w = .ok (.shl x y)) ∧
    (w &&& 0xF00F#16 = 0x9000#16 → decode .implemented w = .ok (.sneReg x y)) ∧
    (w &&& 0xF000#16 = 0xA000#16 → decode .implemented w = .ok (.ldI nnn)) ∧
    (w &&& 0xF000#16 = 0xB000#16 → decode .implemented w = .ok (.jpV0 nnn)) ∧
    (w &&& 0xF000#16 = 0xC000#16 → decode .implemented w = .ok (.rnd x nn)) ∧
    (w &&& 0xF000#16 = 0xD000#16 → decode .implemented w = .ok (.drw x y n)) ∧
    (w &&& 0xF0FF#16 = 0xE09E#16 → decode .implemented w = .ok (.skp x)) ∧
    (w &&& 0xF0FF#16 = 0xE0A1#16 → decode .implemented w = .ok (.sknp x)) ∧
    (w &&& 0xF0FF#16 = 0xF007#16 → decode .implemented w = .ok (.ldVxDt x)) ∧
    (w &&& 0xF0FF#16 = 0xF00A#16 → decode .implemented w = .ok (.ldVxK x)) ∧
    (w &&& 0xF0FF#16 = 0xF015#16 → decode .implemented w = .ok (.ldDtVx x)) ∧
    (w &&& 0xF0FF#16 = 0xF018#16 → decode .implemented w = .ok (.ldStVx x)) ∧
    (w &&& 0xF0FF#16 = 0xF01E#16 → decode .implemented w = .ok (.addI x)) ∧
    (w &&& 0xF0FF#16 = 0xF029#16 → decode .implemented w = .ok (.ldF x)) ∧
    (w &&& 0xF0FF#16 = 0xF033#16 → decode .implemented w = .ok (.ldB x)) ∧
    (w &&& 0xF0FF#16 = 0xF055#16 → decode .implemented w = .ok (.ldMemVx x)) ∧
    (w &&& 0xF0FF#16 = 0xF065#16 → decode .implemented w = .ok (.ldVxMem x))

/-- R54, R56, R118: the words listed as unrecognized are rejected, and every other word is an instruction. -/
def Obligations.UnrecognizedWordsAreTheListed : Prop :=
  ∀ (u : UndocOps) (w : Word),
    (listedUnrecognized u w → decode u w = .error (.unrecognized w)) ∧
    (¬ listedUnrecognized u w → ∃ i, decode u w = .ok i)

/-- R55: one written-out word of each family of the opcode map. -/
def Obligations.WrittenWordsDecode : Prop :=
  decode .implemented 0b0000000011101110#16 = .ok .ret ∧
  decode .implemented 0b0011101100110101#16 = .ok (.seImm 0xB#4 0x35#8) ∧
  decode .implemented 0b1000010111000100#16 = .ok (.addReg 0x5#4 0xC#4) ∧
  decode .implemented 0b1101000100100011#16 = .ok (.drw 0x1#4 0x2#4 0x3#4) ∧
  decode .implemented 0b1110001110011110#16 = .ok (.skp 0x3#4) ∧
  decode .implemented 0b1111110000110011#16 = .ok (.ldB 0xC#4) ∧
  decode .implemented 0b1010001011110000#16 = .ok (.ldI 0x2F0#12)

/-- R118 (D2): with `UNDOC_OPS` = `fatal` the words `Annn`, `Cxnn` and `Fx18` are unrecognized and their `Step` faults; with
`implemented` they are the instructions of R115 to R117. -/
def Obligations.UndocumentedWordsFollowParameter : Prop :=
  ∀ (w : Word) (i : Instr), encode i = w → i.undocumented = true →
    decode .implemented w = .ok i ∧ decode .fatal w = .error (.unrecognized w) ∧
    ∀ (s : State) (keys : KeyVector) (rnd : Byte) (rest : List HostMove),
      s.cfg.undocOps = .fatal → s.faultCode = .none → s.schedule = .step keys rnd :: rest →
      s.pc.toNat ≤ 0xFFE → wordOfBytes (s.byteAt s.pc.toNat) (s.byteAt (s.pc.toNat + 1)) = w →
      step s = .next (latched .unrecognizedOpcode w.toNat { s with keys := keys, rnd := rnd, schedule := rest })

/-! ## The instruction cycle -/

/-- R51 (D7): the fetch needs `pc` ≤ 0xFFE, and then reads the high byte of the word at `pc` and the low byte at `pc` + 1, at any
`pc`, even or odd; otherwise the `Step` faults before anything is read. -/
def Obligations.FetchIsBigEndian : Prop :=
  ∀ s : State,
    (∀ hi lo, s.readByte s.pc.toNat = some hi → s.readByte (s.pc.toNat + 1) = some lo →
      ∃ w, fetchWord s = some w ∧ w.toNat = hi.toNat * 256 + lo.toNat) ∧
    (s.pc.toNat ≤ 0xFFE ↔ (fetchWord s).isSome = true) ∧
    (s.pc.toNat > 0xFFE → s.faultCode = .none → coreStep s = .next (latched .fetchOutOfBounds s.pc.toNat s))

/-- R58, R161: when the next move is a `Step` of a healthy session and the word at `pc` decodes to `i`, the step is `exec i`
at the state with the `Step`'s inputs in place; with an empty schedule the inputs are the free values (log 3). -/
def Obligations.StepRunsDecodedInstruction : Prop :=
  ∀ (s : State) (w : Word) (i : Instr),
    s.faultCode = .none → fetchWord s = some w → decode s.cfg.undocOps w = .ok i →
    (∀ keys rnd rest, s.schedule = .step keys rnd :: rest →
      step s = exec i { s with keys := keys, rnd := rnd, schedule := rest }) ∧
    (s.schedule = [] →
      step s = exec i { s with
        keys := Config.freeKeys s.freeCount, rnd := Config.freeRnd s.freeCount, freeCount := s.freeCount + 1 })

/-- R120, R127, R128, R131 (D13, D14): a `Step` of a healthy session raises the first fault of the table in the order fetch, decode,
execute, and then changes nothing but the latch; where the table gives none, it completes and the latch stays clear. -/
def Obligations.FaultTableAndPriority : Prop :=
  ∀ (s : State) (keys : KeyVector) (rnd : Byte) (rest : List HostMove),
    s.schedule = .step keys rnd :: rest → s.faultCode = .none → s.sp ≤ s.cfg.stackDepth →
    let s' : State := { s with keys := keys, rnd := rnd, schedule := rest }
    (∀ code info, stepFault s' = some (code, info) → step s = .next (latched code info s')) ∧
    (stepFault s' = none → ∃ t dirty waiting,
      step s = .next t ∧ t.result = .completed dirty waiting ∧ t.faultCode = .none ∧ t.faultInfo = s.faultInfo)

/-- R129 (D13): while the latch is set a `Step` changes no state of the core and returns `Faulted(fault_code)`; a host
operation other than `Reset` acts as it would with the latch clear, and leaves the latch. -/
def Obligations.LatchedStepChangesNothing : Prop :=
  ∀ s : State, s.faultCode ≠ .none →
    (∀ keys rnd rest, s.schedule = .step keys rnd :: rest →
      step s = .next { s with keys := keys, rnd := rnd, schedule := rest, result := .faulted s.faultCode }) ∧
    (∀ m rest, s.schedule = m :: rest → (∀ keys rnd, m ≠ .step keys rnd) → m ≠ .reset →
      ∃ t, step { s with faultCode := .none, faultInfo := 0 } = .next t ∧
        step s = .next { t with faultCode := s.faultCode, faultInfo := s.faultInfo })

/-- The model's choice (log 3): with an empty schedule the move is a `Step` with free inputs, and while the latch is set it
too changes no state of the core (R129). -/
def Obligations.LatchedStepWithFreeInputsChangesNothing : Prop :=
  ∀ s : State, s.faultCode ≠ .none → s.schedule = [] →
    step s = .next { s with
      keys := Config.freeKeys s.freeCount, rnd := Config.freeRnd s.freeCount, freeCount := s.freeCount + 1,
      result := .faulted s.faultCode }

/-- Every move of the run answers a next state: no instruction, fault or host operation stops the machine (log 1). -/
def Obligations.EveryStepAnswersNext : Prop := ∀ s : State, ∃ t, step s = .next t

/-- R59: the new `pc` of every completed `Step`, instruction by instruction; a faulting `Step` leaves it unchanged. -/
def Obligations.NewPcOfEveryInstruction : Prop :=
  ∀ (i : Instr) (s : State), ∃ t, exec i s = .next t ∧
    ((∃ dirty waiting, t.result = .completed dirty waiting ∧ t.pc = newPc i s) ∨
     (∃ code, t.result = .faulted code ∧ t.pc = s.pc))

/-! ## Invariants -/

/-- R27: every move of the run keeps the invariant, from every state that has it. -/
def Obligations.StepKeepsInvariant : Prop :=
  ∀ s t : State, s.Inv → step s = .next t → t.Inv

/-- R26, R27: the reset state has the invariant. -/
def Obligations.ResetHasInvariant : Prop := State.reset.Inv

/-- R12: exactly six instructions write VF as a side effect, with 0 or 1 on every completed execution; every other one
leaves VF as it was unless VF is a destination it names. -/
def Obligations.SixInstructionsWriteFlag : Prop :=
  ∀ (i : Instr) (s t : State), exec i s = .next t →
    (writesFlag i = true → (∃ d w, t.result = .completed d w) → t.reg vf = 0#8 ∨ t.reg vf = 1#8) ∧
    (writesFlag i = false → vf ∉ destinations i → t.reg vf = s.reg vf)

/-- R11, R12: an instruction changes no register but the destinations it names and, for the six of R12, VF. -/
def Obligations.OnlyDestinationsChange : Prop :=
  ∀ (i : Instr) (s t : State), exec i s = .next t →
    ∀ r, r ∉ destinations i → (writesFlag i = true → r ≠ vf) → t.reg r = s.reg r

/-- R32: of all instructions only the BCD store and the register dump write memory. -/
def Obligations.OnlyTwoInstructionsWriteMemory : Prop :=
  ∀ (i : Instr) (s t : State), exec i s = .next t →
    (∀ x, i ≠ .ldB x) → (∀ x, i ≠ .ldMemVx x) → t.mem = s.mem

/-- R19, R20, R24: only clear-display and draw touch the framebuffer; each, completed, sets `fb_changed` and reports
`dirty`; no other instruction does. -/
def Obligations.OnlyClearAndDrawTouchFramebuffer : Prop :=
  ∀ (i : Instr) (s t : State), exec i s = .next t →
    (((i = .cls ∨ ∃ x y n, i = .drw x y n) ∧ ∀ code, t.result ≠ .faulted code) →
      t.fbChanged = true ∧ t.result = .completed true false) ∧
    ((i ≠ .cls ∧ ∀ x y n, i ≠ .drw x y n) →
      t.fb = s.fb ∧ t.fbChanged = s.fbChanged ∧ ∀ w, t.result ≠ .completed true w)

/-- R15, R16, R17: the writers of `I`, the call stack, the delay timer and the sound timer. -/
def Obligations.SpecialRegistersHaveFewWriters : Prop :=
  ∀ (i : Instr) (s t : State), exec i s = .next t →
    ((∀ x, i ≠ .addI x) → (∀ x, i ≠ .ldF x) → (∀ a, i ≠ .ldI a) → t.index = s.index) ∧
    (i ≠ .ret → (∀ a, i ≠ .call a) → t.stack = s.stack) ∧
    ((∀ x, i ≠ .ldDtVx x) → t.dt = s.dt) ∧
    ((∀ x, i ≠ .ldStVx x) → t.st = s.st) ∧
    t.cfg = s.cfg ∧ t.keys = s.keys ∧ t.rnd = s.rnd

/-! ## Control flow -/

/-- R70. -/
def Obligations.ClsClearsEveryCell : Prop :=
  Spells 0x00E0#16 .cls ∧
  ∀ s : State, ∃ t, exec .cls s = .next t ∧ t.result = .completed true false ∧
    (∀ row col, t.cell row col = false) ∧ t.fbChanged = true ∧ t.pc = s.pc + 2#16 ∧
    KeepsRegs [] s t ∧ KeepsMemory s t ∧
    t = { s with fb := t.fb, fbChanged := t.fbChanged, pc := t.pc, result := t.result }

/-- R71 (D5; the pattern G2): with an entry on the stack the newest one is popped and execution continues at it plus 2; with none, underflow. -/
def Obligations.RetContinuesAfterCall : Prop :=
  Spells 0x00EE#16 .ret ∧
  (∀ (s : State) (a : Word), s.stackEntry (s.sp - 1) = some a →
    ∃ t, exec .ret s = .next t ∧ t.result = .completed false false ∧
      t.pc = a + 2#16 ∧ t.sp = s.sp - 1 ∧ (∀ k, k < t.sp → t.stackEntry k = s.stackEntry k) ∧
      KeepsRegs [] s t ∧ KeepsMemory s t ∧
      t = { s with stack := t.stack, pc := t.pc, result := t.result }) ∧
  (∀ s : State, s.sp = 0 → exec .ret s = .next (latched .stackUnderflow 0 s))

/-- R72 (the pattern G2). -/
def Obligations.JumpGoesToTarget : Prop :=
  ∀ nnn : Addr12,
    Spells (0x1#4 ++ nnn) (.jp nnn) ∧
    ∀ s : State, ∃ t, exec (.jp nnn) s = .next t ∧ t.result = .completed false false ∧
      t.pc.toNat = nnn.toNat ∧ KeepsRegs [] s t ∧ KeepsMemory s t ∧
      t = { s with pc := t.pc, result := t.result }

/-- R73 (D5, D6; the pattern G2): below the bound the address of the call itself is pushed; at the bound, overflow. -/
def Obligations.CallPushesItsOwnAddress : Prop :=
  ∀ nnn : Addr12,
    Spells (0x2#4 ++ nnn) (.call nnn) ∧
    (∀ s : State, s.sp < s.cfg.stackDepth →
      ∃ t, exec (.call nnn) s = .next t ∧ t.result = .completed false false ∧
        t.pc.toNat = nnn.toNat ∧ t.sp = s.sp + 1 ∧ t.stackEntry s.sp = some s.pc ∧
        (∀ k, k < s.sp → t.stackEntry k = s.stackEntry k) ∧
        KeepsRegs [] s t ∧ KeepsMemory s t ∧
        t = { s with stack := t.stack, pc := t.pc, result := t.result }) ∧
    (∀ s : State, s.sp = s.cfg.stackDepth → exec (.call nnn) s = .next (latched .stackOverflow 0 s))

/-- R71, R73: a return right after a call continues at the instruction that follows the call, with the stack as it was. -/
def Obligations.ReturnUndoesCall : Prop :=
  ∀ (nnn : Addr12) (s : State), s.sp < s.cfg.stackDepth →
    ∃ t u, exec (.call nnn) s = .next t ∧ exec .ret t = .next u ∧
      u.pc = s.pc + 2#16 ∧ u.stack = s.stack

/-- R74, R75 (the pattern of R75 G2). -/
def Obligations.CompareImmediateSkips : Prop :=
  ∀ (x : RegNum) (nn : Byte),
    Spells (0x3#4 ++ x ++ nn) (.seImm x nn) ∧ Spells (0x4#4 ++ x ++ nn) (.sneImm x nn) ∧
    ∀ s : State,
      (∃ t, exec (.seImm x nn) s = .next t ∧ t.result = .completed false false ∧
        t.pc = (if (s.reg x).toNat = nn.toNat then s.pc + 4#16 else s.pc + 2#16) ∧
        KeepsRegs [] s t ∧ KeepsMemory s t ∧ t = { s with pc := t.pc, result := t.result }) ∧
      (∃ t, exec (.sneImm x nn) s = .next t ∧ t.result = .completed false false ∧
        t.pc = (if (s.reg x).toNat ≠ nn.toNat then s.pc + 4#16 else s.pc + 2#16) ∧
        KeepsRegs [] s t ∧ KeepsMemory s t ∧ t = { s with pc := t.pc, result := t.result })

/-- R76, R77 (the patterns G2). -/
def Obligations.CompareRegistersSkips : Prop :=
  ∀ (x y : RegNum),
    Spells (0x5#4 ++ x ++ y ++ 0x0#4) (.seReg x y) ∧ Spells (0x9#4 ++ x ++ y ++ 0x0#4) (.sneReg x y) ∧
    ∀ s : State,
      (∃ t, exec (.seReg x y) s = .next t ∧ t.result = .completed false false ∧
        t.pc = (if (s.reg x).toNat = (s.reg y).toNat then s.pc + 4#16 else s.pc + 2#16) ∧
        KeepsRegs [] s t ∧ KeepsMemory s t ∧ t = { s with pc := t.pc, result := t.result }) ∧
      (∃ t, exec (.sneReg x y) s = .next t ∧ t.result = .completed false false ∧
        t.pc = (if (s.reg x).toNat ≠ (s.reg y).toNat then s.pc + 4#16 else s.pc + 2#16) ∧
        KeepsRegs [] s t ∧ KeepsMemory s t ∧ t = { s with pc := t.pc, result := t.result })

/-- R78 (the pattern G2): the sum of V0 and `nnn`, not reduced to 12 bits; it never overflows 16 bits. -/
def Obligations.JumpWithOffsetAddsV0 : Prop :=
  ∀ nnn : Addr12,
    Spells (0xB#4 ++ nnn) (.jpV0 nnn) ∧
    ∀ s : State, ∃ t, exec (.jpV0 nnn) s = .next t ∧ t.result = .completed false false ∧
      t.pc.toNat = (s.reg 0#4).toNat + nnn.toNat ∧ KeepsRegs [] s t ∧ KeepsMemory s t ∧
      t = { s with pc := t.pc, result := t.result }

/-! ## Arithmetic, logic, shifts -/

/-- R81, R82: VF is an ordinary destination, and no carry is recorded. -/
def Obligations.LoadAndAddImmediate : Prop :=
  ∀ (x : RegNum) (nn : Byte),
    Spells (0x6#4 ++ x ++ nn) (.ldImm x nn) ∧ Spells (0x7#4 ++ x ++ nn) (.addImm x nn) ∧
    ∀ s : State,
      (∃ t, exec (.ldImm x nn) s = .next t ∧ t.result = .completed false false ∧
        t.reg x = nn ∧ t.pc = s.pc + 2#16 ∧
        KeepsRegs [x] s t ∧ KeepsMemory s t ∧ t = { s with v := t.v, pc := t.pc, result := t.result }) ∧
      (∃ t, exec (.addImm x nn) s = .next t ∧ t.result = .completed false false ∧
        (t.reg x).toNat = ((s.reg x).toNat + nn.toNat) % 256 ∧ t.pc = s.pc + 2#16 ∧
        KeepsRegs [x] s t ∧ KeepsMemory s t ∧ t = { s with v := t.v, pc := t.pc, result := t.result })

/-- R83, R84, R85, R86: copy, OR, AND and XOR, bit by bit; VF is not written as a flag. -/
def Obligations.CopyAndLogic : Prop :=
  ∀ (x y : RegNum),
    Spells (0x8#4 ++ x ++ y ++ 0x0#4) (.ldReg x y) ∧ Spells (0x8#4 ++ x ++ y ++ 0x1#4) (.or x y) ∧
    Spells (0x8#4 ++ x ++ y ++ 0x2#4) (.and x y) ∧ Spells (0x8#4 ++ x ++ y ++ 0x3#4) (.xor x y) ∧
    ∀ s : State,
      (∃ t, exec (.ldReg x y) s = .next t ∧ t.result = .completed false false ∧
        t.reg x = s.reg y ∧ t.pc = s.pc + 2#16 ∧
        KeepsRegs [x] s t ∧ KeepsMemory s t ∧ t = { s with v := t.v, pc := t.pc, result := t.result }) ∧
      (∃ t, exec (.or x y) s = .next t ∧ t.result = .completed false false ∧
        (∀ k, (t.reg x).getLsbD k = ((s.reg x).getLsbD k || (s.reg y).getLsbD k)) ∧ t.pc = s.pc + 2#16 ∧
        KeepsRegs [x] s t ∧ KeepsMemory s t ∧ t = { s with v := t.v, pc := t.pc, result := t.result }) ∧
      (∃ t, exec (.and x y) s = .next t ∧ t.result = .completed false false ∧
        (∀ k, (t.reg x).getLsbD k = ((s.reg x).getLsbD k && (s.reg y).getLsbD k)) ∧ t.pc = s.pc + 2#16 ∧
        KeepsRegs [x] s t ∧ KeepsMemory s t ∧ t = { s with v := t.v, pc := t.pc, result := t.result }) ∧
      (∃ t, exec (.xor x y) s = .next t ∧ t.result = .completed false false ∧
        (∀ k, (t.reg x).getLsbD k = ((s.reg x).getLsbD k ^^ (s.reg y).getLsbD k)) ∧ t.pc = s.pc + 2#16 ∧
        KeepsRegs [x] s t ∧ KeepsMemory s t ∧ t = { s with v := t.v, pc := t.pc, result := t.result })

/-- R87, R13: VF ends as the carry whatever `x` and `y` are; where `x` is not 0xF, `V[x]` is the sum. -/
def Obligations.AddRegistersWithCarry : Prop :=
  ∀ (x y : RegNum),
    Spells (0x8#4 ++ x ++ y ++ 0x4#4) (.addReg x y) ∧
    ∀ s : State, ∃ t, exec (.addReg x y) s = .next t ∧ t.result = .completed false false ∧
      (x ≠ 0xF#4 → (t.reg x).toNat = ((s.reg x).toNat + (s.reg y).toNat) % 256) ∧
      (t.reg 0xF#4).toNat = (if (s.reg x).toNat + (s.reg y).toNat > 255 then 1 else 0) ∧
      t.pc = s.pc + 2#16 ∧ KeepsRegs [x, 0xF#4] s t ∧ KeepsMemory s t ∧
      t = { s with v := t.v, pc := t.pc, result := t.result }

/-- R88, R13: VF ends as the no-borrow flag; where `x` is not 0xF, `V[x]` is the difference modulo 256. -/
def Obligations.SubtractReportsNoBorrow : Prop :=
  ∀ (x y : RegNum),
    Spells (0x8#4 ++ x ++ y ++ 0x5#4) (.sub x y) ∧
    ∀ s : State, ∃ t, exec (.sub x y) s = .next t ∧ t.result = .completed false false ∧
      (x ≠ 0xF#4 → t.reg x = s.reg x - s.reg y) ∧
      (t.reg 0xF#4).toNat = (if (s.reg x).toNat ≥ (s.reg y).toNat then 1 else 0) ∧
      t.pc = s.pc + 2#16 ∧ KeepsRegs [x, 0xF#4] s t ∧ KeepsMemory s t ∧
      t = { s with v := t.v, pc := t.pc, result := t.result }

/-- R89, R13: the operands of R88 exchanged. -/
def Obligations.ReverseSubtractReportsNoBorrow : Prop :=
  ∀ (x y : RegNum),
    Spells (0x8#4 ++ x ++ y ++ 0x7#4) (.subn x y) ∧
    ∀ s : State, ∃ t, exec (.subn x y) s = .next t ∧ t.result = .completed false false ∧
      (x ≠ 0xF#4 → t.reg x = s.reg y - s.reg x) ∧
      (t.reg 0xF#4).toNat = (if (s.reg y).toNat ≥ (s.reg x).toNat then 1 else 0) ∧
      t.pc = s.pc + 2#16 ∧ KeepsRegs [x, 0xF#4] s t ∧ KeepsMemory s t ∧
      t = { s with v := t.v, pc := t.pc, result := t.result }

/-- R90, R13, R57: the operand is `V[x]`, for all 16 values of the ignored field; VF ends as the old bit 0. -/
def Obligations.ShiftRightReportsLowBit : Prop :=
  ∀ (x y : RegNum),
    Spells (0x8#4 ++ x ++ y ++ 0x6#4) (.shr x y) ∧
    ∀ s : State, ∃ t, exec (.shr x y) s = .next t ∧ t.result = .completed false false ∧
      (x ≠ 0xF#4 → t.reg x = s.reg x >>> 1) ∧
      (t.reg 0xF#4).toNat = (s.reg x).toNat % 2 ∧
      t.pc = s.pc + 2#16 ∧ KeepsRegs [x, 0xF#4] s t ∧ KeepsMemory s t ∧
      t = { s with v := t.v, pc := t.pc, result := t.result }

/-- R91, R13, R57: the operand is `V[x]`, for all 16 values of the ignored field; VF ends as the old bit 7. -/
def Obligations.ShiftLeftReportsHighBit : Prop :=
  ∀ (x y : RegNum),
    Spells (0x8#4 ++ x ++ y ++ 0xE#4) (.shl x y) ∧
    ∀ s : State, ∃ t, exec (.shl x y) s = .next t ∧ t.result = .completed false false ∧
      (x ≠ 0xF#4 → t.reg x = s.reg x <<< 1) ∧
      (t.reg 0xF#4).toNat = (s.reg x).toNat / 128 ∧
      t.pc = s.pc + 2#16 ∧ KeepsRegs [x, 0xF#4] s t ∧ KeepsMemory s t ∧
      t = { s with v := t.v, pc := t.pc, result := t.result }

/-! ## Draw -/

/-- R95 (D8, D9): with every sprite address valid, each cell a 1 bit of the sprite falls on is inverted and every other cell is as
before, VF is the collision, and `fb_changed` is set; otherwise the draw faults and changes no cell. -/
def Obligations.DrawXorsSpriteIntoCells : Prop :=
  ∀ (x y : RegNum) (n : Nibble),
    Spells (0xD#4 ++ x ++ y ++ n) (.drw x y n) ∧
    (∀ s : State, (n.toNat = 0 ∨ s.index.toNat + n.toNat - 1 ≤ 4095) →
      ∃ t, exec (.drw x y n) s = .next t ∧ t.result = .completed true false ∧
        (∀ row col, spriteLit s (s.reg x) (s.reg y) n.toNat row col → t.cell row col = !s.cell row col) ∧
        (∀ row col, ¬ spriteLit s (s.reg x) (s.reg y) n.toNat row col → t.cell row col = s.cell row col) ∧
        ((∃ row col, spriteLit s (s.reg x) (s.reg y) n.toNat row col ∧ s.cell row col = true) → t.reg 0xF#4 = 1#8) ∧
        ((¬ ∃ row col, spriteLit s (s.reg x) (s.reg y) n.toNat row col ∧ s.cell row col = true) → t.reg 0xF#4 = 0#8) ∧
        t.fbChanged = true ∧ t.pc = s.pc + 2#16 ∧ KeepsRegs [0xF#4] s t ∧ KeepsMemory s t ∧
        t = { s with v := t.v, fb := t.fb, fbChanged := t.fbChanged, pc := t.pc, result := t.result }) ∧
    (∀ s : State, n.toNat > 0 → s.index.toNat + n.toNat - 1 > 4095 →
      exec (.drw x y n) s = .next (latched .memoryOutOfBounds (max s.index.toNat 4096) s))

/-- R96 (b), (c): two identical draws, neither position register being VF, restore every cell; the second one reports a
collision when the first one set a cell, and, where the first one met only cells that were off, reports none exactly when the
sprite has no 1 bit (log 33). -/
def Obligations.DrawTwiceRestoresFramebuffer : Prop :=
  ∀ (x y : RegNum) (n : Nibble) (s : State), x ≠ 0xF#4 → y ≠ 0xF#4 →
    (n.toNat = 0 ∨ s.index.toNat + n.toNat - 1 ≤ 4095) →
    ∃ t u, exec (.drw x y n) s = .next t ∧ exec (.drw x y n) t = .next u ∧ u.fb = s.fb ∧
      ((∃ row col, s.cell row col = false ∧ t.cell row col = true) → u.reg 0xF#4 = 1#8) ∧
      ((∀ row col, spriteLit s (s.reg x) (s.reg y) n.toNat row col → s.cell row col = false) →
        (u.reg 0xF#4 = 0#8 ↔ ¬ ∃ row col, spriteLit s (s.reg x) (s.reg y) n.toNat row col))

/-! ## Keys, timers, index register, memory transfer -/

/-- R100, R101 (D10): the key numbered `V[x]` decides the skip; a value above 15 names no key and faults. -/
def Obligations.KeySkipsSampleTheVector : Prop :=
  ∀ x : RegNum,
    Spells (0xE#4 ++ x ++ 0x9E#8) (.skp x) ∧ Spells (0xE#4 ++ x ++ 0xA1#8) (.sknp x) ∧
    (∀ s : State, (s.reg x).toNat ≤ 15 →
      (∃ t, exec (.skp x) s = .next t ∧ t.result = .completed false false ∧
        t.pc = (if s.keyDown (s.reg x).toNat = true then s.pc + 4#16 else s.pc + 2#16) ∧
        KeepsRegs [] s t ∧ KeepsMemory s t ∧ t = { s with pc := t.pc, result := t.result }) ∧
      (∃ t, exec (.sknp x) s = .next t ∧ t.result = .completed false false ∧
        t.pc = (if s.keyDown (s.reg x).toNat = false then s.pc + 4#16 else s.pc + 2#16) ∧
        KeepsRegs [] s t ∧ KeepsMemory s t ∧ t = { s with pc := t.pc, result := t.result })) ∧
    (∀ s : State, (s.reg x).toNat > 15 →
      exec (.skp x) s = .next (latched .keyIndexOutOfRange (s.reg x).toNat s) ∧
      exec (.sknp x) s = .next (latched .keyIndexOutOfRange (s.reg x).toNat s))

/-- R103 (D11, D12): with no key pressed the `Step` reports `waiting` and changes nothing else; else the lowest pressed key is stored. -/
def Obligations.KeyWaitStallsOrStoresLowest : Prop :=
  ∀ x : RegNum,
    Spells (0xF#4 ++ x ++ 0x0A#8) (.ldVxK x) ∧
    (∀ s : State, (∀ k, k < 16 → s.keyDown k = false) →
      ∃ t, exec (.ldVxK x) s = .next t ∧ t = { s with result := .completed false true }) ∧
    (∀ (s : State) (k : Nat), k < 16 → s.keyDown k = true → (∀ j, j < k → s.keyDown j = false) →
      ∃ t, exec (.ldVxK x) s = .next t ∧ t.result = .completed false false ∧
        (t.reg x).toNat = k ∧ t.pc = s.pc + 2#16 ∧
        KeepsRegs [x] s t ∧ KeepsMemory s t ∧ t = { s with v := t.v, pc := t.pc, result := t.result })

/-- R102, R104, R117 (R117 by D2): the three instructions that read or write a timer; none of them counts. -/
def Obligations.TimerRegistersAreMoved : Prop :=
  ∀ x : RegNum,
    Spells (0xF#4 ++ x ++ 0x07#8) (.ldVxDt x) ∧ Spells (0xF#4 ++ x ++ 0x15#8) (.ldDtVx x) ∧
    Spells (0xF#4 ++ x ++ 0x18#8) (.ldStVx x) ∧
    ∀ s : State,
      (∃ t, exec (.ldVxDt x) s = .next t ∧ t.result = .completed false false ∧
        t.reg x = s.dt ∧ t.pc = s.pc + 2#16 ∧
        KeepsRegs [x] s t ∧ KeepsMemory s t ∧ t = { s with v := t.v, pc := t.pc, result := t.result }) ∧
      (∃ t, exec (.ldDtVx x) s = .next t ∧ t.result = .completed false false ∧
        t.dt = s.reg x ∧ t.pc = s.pc + 2#16 ∧
        KeepsRegs [] s t ∧ KeepsMemory s t ∧ t = { s with dt := t.dt, pc := t.pc, result := t.result }) ∧
      (∃ t, exec (.ldStVx x) s = .next t ∧ t.result = .completed false false ∧
        t.st = s.reg x ∧ t.pc = s.pc + 2#16 ∧
        KeepsRegs [] s t ∧ KeepsMemory s t ∧ t = { s with st := t.st, pc := t.pc, result := t.result })

/-- R105, R106, R115 (D18, D19, R115 by D2): the three writers of `I`; VF is written by none of them. -/
def Obligations.IndexRegisterIsComputed : Prop :=
  ∀ (x : RegNum) (nnn : Addr12),
    Spells (0xF#4 ++ x ++ 0x1E#8) (.addI x) ∧ Spells (0xF#4 ++ x ++ 0x29#8) (.ldF x) ∧
    Spells (0xA#4 ++ nnn) (.ldI nnn) ∧
    ∀ s : State,
      (∃ t, exec (.addI x) s = .next t ∧ t.result = .completed false false ∧
        t.index.toNat = (s.index.toNat + (s.reg x).toNat) % 65536 ∧ t.pc = s.pc + 2#16 ∧
        KeepsRegs [] s t ∧ KeepsMemory s t ∧ t = { s with index := t.index, pc := t.pc, result := t.result }) ∧
      (∃ t, exec (.ldF x) s = .next t ∧ t.result = .completed false false ∧
        t.index.toNat = (s.reg x).toNat * 5 ∧ t.pc = s.pc + 2#16 ∧
        KeepsRegs [] s t ∧ KeepsMemory s t ∧ t = { s with index := t.index, pc := t.pc, result := t.result }) ∧
      (∃ t, exec (.ldI nnn) s = .next t ∧ t.result = .completed false false ∧
        t.index.toNat = nnn.toNat ∧ t.pc = s.pc + 2#16 ∧
        KeepsRegs [] s t ∧ KeepsMemory s t ∧ t = { s with index := t.index, pc := t.pc, result := t.result })

/-- R116 (D2, D25): `rnd & nn` bit by bit, for every random byte the `Step` may be handed. -/
def Obligations.RandomByteIsMasked : Prop :=
  ∀ (x : RegNum) (nn : Byte),
    Spells (0xC#4 ++ x ++ nn) (.rnd x nn) ∧
    ∀ s : State, ∃ t, exec (.rnd x nn) s = .next t ∧ t.result = .completed false false ∧
      (∀ k, (t.reg x).getLsbD k = (s.rnd.getLsbD k && nn.getLsbD k)) ∧ t.pc = s.pc + 2#16 ∧
      KeepsRegs [x] s t ∧ KeepsMemory s t ∧ t = { s with v := t.v, pc := t.pc, result := t.result }

/-- R107 (the fault's information D14): the three decimal digits at `I`, `I` + 1, `I` + 2; above 4093 nothing is written and the store faults. -/
def Obligations.StoreDecimalDigits : Prop :=
  ∀ x : RegNum,
    Spells (0xF#4 ++ x ++ 0x33#8) (.ldB x) ∧
    (∀ s : State, s.index.toNat + 2 ≤ 4095 →
      ∃ t, exec (.ldB x) s = .next t ∧ t.result = .completed false false ∧
        t.readByte s.index.toNat = some (BitVec.ofNat 8 ((s.reg x).toNat / 100)) ∧
        t.readByte (s.index.toNat + 1) = some (BitVec.ofNat 8 ((s.reg x).toNat / 10 % 10)) ∧
        t.readByte (s.index.toNat + 2) = some (BitVec.ofNat 8 ((s.reg x).toNat % 10)) ∧
        t.pc = s.pc + 2#16 ∧ KeepsRegs [] s t ∧ KeepsMemoryOutside s.index.toNat 3 s t ∧
        t = { s with mem := t.mem, pc := t.pc, result := t.result }) ∧
    (∀ s : State, s.index.toNat + 2 > 4095 →
      exec (.ldB x) s = .next (latched .memoryOutOfBounds (max s.index.toNat 4096) s))

/-- R108 (the fault's information D14): `V[0]` .. `V[x]` at `I` .. `I` + `x`, `I` unmodified; out of bounds nothing is written and the dump faults. -/
def Obligations.RegisterDumpStoresRange : Prop :=
  ∀ x : RegNum,
    Spells (0xF#4 ++ x ++ 0x55#8) (.ldMemVx x) ∧
    (∀ s : State, s.index.toNat + x.toNat ≤ 4095 →
      ∃ t, exec (.ldMemVx x) s = .next t ∧ t.result = .completed false false ∧
        (∀ r : RegNum, r.toNat ≤ x.toNat → t.readByte (s.index.toNat + r.toNat) = some (s.reg r)) ∧
        t.pc = s.pc + 2#16 ∧ KeepsRegs [] s t ∧ KeepsMemoryOutside s.index.toNat (x.toNat + 1) s t ∧
        t = { s with mem := t.mem, pc := t.pc, result := t.result }) ∧
    (∀ s : State, s.index.toNat + x.toNat > 4095 →
      exec (.ldMemVx x) s = .next (latched .memoryOutOfBounds (max s.index.toNat 4096) s))

/-- R109 (the fault's information D14): the bytes at `I` .. `I` + `x` into `V[0]` .. `V[x]`, VF an ordinary destination; out of bounds no register is
written and the load faults. -/
def Obligations.RegisterLoadReadsRange : Prop :=
  ∀ x : RegNum,
    Spells (0xF#4 ++ x ++ 0x65#8) (.ldVxMem x) ∧
    (∀ s : State, s.index.toNat + x.toNat ≤ 4095 →
      ∃ t, exec (.ldVxMem x) s = .next t ∧ t.result = .completed false false ∧
        (∀ r : RegNum, r.toNat ≤ x.toNat → s.readByte (s.index.toNat + r.toNat) = some (t.reg r)) ∧
        (∀ r : RegNum, x.toNat < r.toNat → t.reg r = s.reg r) ∧
        t.pc = s.pc + 2#16 ∧ KeepsMemory s t ∧
        t = { s with v := t.v, pc := t.pc, result := t.result }) ∧
    (∀ s : State, s.index.toNat + x.toNat > 4095 →
      exec (.ldVxMem x) s = .next (latched .memoryOutOfBounds (max s.index.toNat 4096) s))

/-- R108, R109: a dump followed by a load of the same range restores the registers, whatever was in the registers between
the two; memory reads the same after the load as before it. -/
def Obligations.DumpThenLoadRoundTrips : Prop :=
  ∀ (x : RegNum) (s : State) (v' : Vector Byte 16), s.index.toNat + x.toNat ≤ 4095 →
    ∃ t u, exec (.ldMemVx x) s = .next t ∧ exec (.ldVxMem x) { t with v := v' } = .next u ∧
      (∀ r : RegNum, r.toNat ≤ x.toNat → u.reg r = s.reg r ∧ u.readByte (u.index.toNat + r.toNat) = some (u.reg r)) ∧
      KeepsMemory t u

/-- R43 (D24): the bytes a dump stores are what the next fetch from their address reads. -/
def Obligations.StoreIsSeenByFetch : Prop :=
  ∀ (x : RegNum) (s : State), 1 ≤ x.toNat → s.index.toNat + x.toNat ≤ 4095 →
    ∃ t, exec (.ldMemVx x) s = .next t ∧
      fetchWord { t with pc := s.index } = some (wordOfBytes (s.reg 0#4) (s.reg 1#4))

/-! ## Reset and the host's operations -/

/-- R26 (D13, D15): the reset state, field by field; memory is `FONT` below 0x50 and 0 from there up. -/
def Obligations.ResetStateValues : Prop :=
  (∀ r, State.reset.reg r = 0#8) ∧ State.reset.index = 0#16 ∧ State.reset.pc = 0x200#16 ∧ State.reset.sp = 0 ∧
  State.reset.dt = 0#8 ∧ State.reset.st = 0#8 ∧
  (∀ a (h : a < 80), State.reset.readByte a = some (State.reset.cfg.font[a])) ∧
  (∀ a, 0x50 ≤ a → a ≤ 0xFFF → State.reset.readByte a = some 0#8) ∧
  (∀ row col, State.reset.cell row col = false) ∧ State.reset.fbChanged = false ∧
  State.reset.faultCode.number = 0 ∧ State.reset.faultInfo = 0

/-- R150 (D13, D15): `Reset`, from any state, latched or not, gives every piece of the core's state its reset value; the configuration
stays. -/
def Obligations.ResetReinitializesEverything : Prop :=
  ∀ (s : State) (rest : List HostMove), s.schedule = .reset :: rest →
    ∃ t, step s = .next t ∧
      (∀ r, t.reg r = 0#8) ∧ t.index = 0#16 ∧ t.pc = 0x200#16 ∧ t.sp = 0 ∧ t.dt = 0#8 ∧ t.st = 0#8 ∧
      (∀ a (h : a < 80), t.readByte a = some (s.cfg.font[a])) ∧
      (∀ a, 0x50 ≤ a → a ≤ 0xFFF → t.readByte a = some 0#8) ∧
      (∀ row col, t.cell row col = false) ∧ t.fbChanged = false ∧ t.faultCode.number = 0 ∧ t.faultInfo = 0 ∧
      t.cfg = s.cfg ∧ t.schedule = rest

/-- R153 (D21): a program that fits is written from 0x200 up and nothing else changes; one that does not fit is refused with no
byte written. -/
def Obligations.LoadProgramCopiesOrRefuses : Prop :=
  ∀ (s : State) (bytes : List Byte) (rest : List HostMove), s.schedule = .loadProgram bytes :: rest →
    (bytes.length ≤ 3584 → ∃ t, step s = .next t ∧ t.result = .loadOk ∧
      (∀ k, k < bytes.length → t.readByte (0x200 + k) = bytes[k]?) ∧
      KeepsMemoryOutside 0x200 bytes.length s t ∧
      t = { s with mem := t.mem, schedule := rest, result := t.result }) ∧
    (bytes.length > 3584 → step s = .next { s with schedule := rest, result := .programTooLarge })

/-- R154 (D22): `SetRegister` writes one general register and nothing else. -/
def Obligations.SetRegisterWritesOneRegister : Prop :=
  ∀ (s : State) (i : RegNum) (v : Byte) (rest : List HostMove), s.schedule = .setRegister i v :: rest →
    ∃ t, step s = .next t ∧ t.reg i = v ∧ KeepsRegs [i] s t ∧ KeepsMemory s t ∧
      t = { s with v := t.v, schedule := rest, result := .none }

/-- R135 (D17, the floor G6): `TimerTick` decreases each timer that is not 0 by 1; a timer at 0 stays 0. -/
def Obligations.TimerTickCountsDown : Prop :=
  ∀ (s : State) (rest : List HostMove), s.schedule = .timerTick :: rest →
    ∃ t, step s = .next t ∧ t.dt.toNat = s.dt.toNat - 1 ∧ t.st.toNat = s.st.toNat - 1 ∧
      t = { s with dt := t.dt, st := t.st, schedule := rest, result := .none }

/-- R20, R139 (D16): once set, `fb_changed` stays set until `AckFramebuffer` or `Reset`; the acknowledge lowers it and changes no
cell. -/
def Obligations.ChangedFlagStaysUntilAcknowledged : Prop :=
  ∀ s : State,
    (∀ rest, s.schedule = .ackFramebuffer :: rest →
      step s = .next { s with fbChanged := false, schedule := rest, result := .none }) ∧
    (s.fbChanged = true → (∀ rest, s.schedule ≠ .ackFramebuffer :: rest) → (∀ rest, s.schedule ≠ .reset :: rest) →
      ∃ t, step s = .next t ∧ t.fbChanged = true)

/-- R156: a `Step` after `Reset` with no program loaded fetches 0x0000 and faults, whatever its inputs are. -/
def Obligations.StepAfterResetFaults : Prop :=
  ∀ (keys : KeyVector) (rnd : Byte) (rest : List HostMove),
    step { State.reset with schedule := .step keys rnd :: rest } =
      .next (latched .unrecognizedOpcode 0x0000 { State.reset with keys := keys, rnd := rnd, schedule := rest })

/-- R72, R160: a jump to its own address leaves the whole state of the core unchanged, whatever the inputs. -/
def Obligations.JumpToSelfChangesNothing : Prop :=
  ∀ (s : State) (nnn : Addr12) (keys : KeyVector) (rnd : Byte) (rest : List HostMove),
    s.schedule = .step keys rnd :: rest → s.faultCode = .none →
    s.pc.toNat = nnn.toNat → fetchWord s = some (0x1#4 ++ nnn) →
    step s = .next { s with keys := keys, rnd := rnd, schedule := rest, result := .completed false false }
end

