-- ==== Sys2Proof/Laws/State.lean ====
section
/-!
SUPPORT. What each update of the state does to each field and to each accessor: one lemma per field per update, so that no
proof unfolds a record update.
-/

namespace Sys2Proof.Machine

/-! ### `State.setReg` -/

@[simp] theorem State.setReg_index (s : State) (x : RegNum) (b : Byte) : (s.setReg x b).index = s.index := rfl
@[simp] theorem State.setReg_pc (s : State) (x : RegNum) (b : Byte) : (s.setReg x b).pc = s.pc := rfl
@[simp] theorem State.setReg_stack (s : State) (x : RegNum) (b : Byte) : (s.setReg x b).stack = s.stack := rfl
@[simp] theorem State.setReg_dt (s : State) (x : RegNum) (b : Byte) : (s.setReg x b).dt = s.dt := rfl
@[simp] theorem State.setReg_st (s : State) (x : RegNum) (b : Byte) : (s.setReg x b).st = s.st := rfl
@[simp] theorem State.setReg_mem (s : State) (x : RegNum) (b : Byte) : (s.setReg x b).mem = s.mem := rfl
@[simp] theorem State.setReg_fb (s : State) (x : RegNum) (b : Byte) : (s.setReg x b).fb = s.fb := rfl
@[simp] theorem State.setReg_fbChanged (s : State) (x : RegNum) (b : Byte) : (s.setReg x b).fbChanged = s.fbChanged := rfl
@[simp] theorem State.setReg_faultCode (s : State) (x : RegNum) (b : Byte) : (s.setReg x b).faultCode = s.faultCode := rfl
@[simp] theorem State.setReg_faultInfo (s : State) (x : RegNum) (b : Byte) : (s.setReg x b).faultInfo = s.faultInfo := rfl
@[simp] theorem State.setReg_cfg (s : State) (x : RegNum) (b : Byte) : (s.setReg x b).cfg = s.cfg := rfl
@[simp] theorem State.setReg_keys (s : State) (x : RegNum) (b : Byte) : (s.setReg x b).keys = s.keys := rfl
@[simp] theorem State.setReg_rnd (s : State) (x : RegNum) (b : Byte) : (s.setReg x b).rnd = s.rnd := rfl
@[simp] theorem State.setReg_schedule (s : State) (x : RegNum) (b : Byte) : (s.setReg x b).schedule = s.schedule := rfl
@[simp] theorem State.setReg_freeCount (s : State) (x : RegNum) (b : Byte) : (s.setReg x b).freeCount = s.freeCount := rfl
@[simp] theorem State.setReg_result (s : State) (x : RegNum) (b : Byte) : (s.setReg x b).result = s.result := rfl
@[simp] theorem State.setReg_byteAt (s : State) (x : RegNum) (b : Byte) (a' : Nat) : (s.setReg x b).byteAt a' = s.byteAt a' := rfl
@[simp] theorem State.setReg_readByte (s : State) (x : RegNum) (b : Byte) (a' : Nat) : (s.setReg x b).readByte a' = s.readByte a' := rfl
@[simp] theorem State.setReg_cell (s : State) (x : RegNum) (b : Byte) (i : Fin 32) (j : Fin 64) : (s.setReg x b).cell i j = s.cell i j := rfl
@[simp] theorem State.setReg_sp (s : State) (x : RegNum) (b : Byte) : (s.setReg x b).sp = s.sp := rfl
@[simp] theorem State.setReg_keyDown (s : State) (x : RegNum) (b : Byte) (k' : Nat) : (s.setReg x b).keyDown k' = s.keyDown k' := rfl
@[simp] theorem State.setReg_base (s : State) (x : RegNum) (b : Byte) : (s.setReg x b).base = s.base := rfl

/-! ### `State.setPc` -/

@[simp] theorem State.setPc_v (s : State) (a : Word) : (s.setPc a).v = s.v := rfl
@[simp] theorem State.setPc_index (s : State) (a : Word) : (s.setPc a).index = s.index := rfl
@[simp] theorem State.setPc_pc (s : State) (a : Word) : (s.setPc a).pc = a := rfl
@[simp] theorem State.setPc_stack (s : State) (a : Word) : (s.setPc a).stack = s.stack := rfl
@[simp] theorem State.setPc_dt (s : State) (a : Word) : (s.setPc a).dt = s.dt := rfl
@[simp] theorem State.setPc_st (s : State) (a : Word) : (s.setPc a).st = s.st := rfl
@[simp] theorem State.setPc_mem (s : State) (a : Word) : (s.setPc a).mem = s.mem := rfl
@[simp] theorem State.setPc_fb (s : State) (a : Word) : (s.setPc a).fb = s.fb := rfl
@[simp] theorem State.setPc_fbChanged (s : State) (a : Word) : (s.setPc a).fbChanged = s.fbChanged := rfl
@[simp] theorem State.setPc_faultCode (s : State) (a : Word) : (s.setPc a).faultCode = s.faultCode := rfl
@[simp] theorem State.setPc_faultInfo (s : State) (a : Word) : (s.setPc a).faultInfo = s.faultInfo := rfl
@[simp] theorem State.setPc_cfg (s : State) (a : Word) : (s.setPc a).cfg = s.cfg := rfl
@[simp] theorem State.setPc_keys (s : State) (a : Word) : (s.setPc a).keys = s.keys := rfl
@[simp] theorem State.setPc_rnd (s : State) (a : Word) : (s.setPc a).rnd = s.rnd := rfl
@[simp] theorem State.setPc_schedule (s : State) (a : Word) : (s.setPc a).schedule = s.schedule := rfl
@[simp] theorem State.setPc_freeCount (s : State) (a : Word) : (s.setPc a).freeCount = s.freeCount := rfl
@[simp] theorem State.setPc_result (s : State) (a : Word) : (s.setPc a).result = s.result := rfl
@[simp] theorem State.setPc_reg (s : State) (a : Word) (y : RegNum) : (s.setPc a).reg y = s.reg y := rfl
@[simp] theorem State.setPc_byteAt (s : State) (a : Word) (a' : Nat) : (s.setPc a).byteAt a' = s.byteAt a' := rfl
@[simp] theorem State.setPc_readByte (s : State) (a : Word) (a' : Nat) : (s.setPc a).readByte a' = s.readByte a' := rfl
@[simp] theorem State.setPc_cell (s : State) (a : Word) (i : Fin 32) (j : Fin 64) : (s.setPc a).cell i j = s.cell i j := rfl
@[simp] theorem State.setPc_sp (s : State) (a : Word) : (s.setPc a).sp = s.sp := rfl
@[simp] theorem State.setPc_keyDown (s : State) (a : Word) (k' : Nat) : (s.setPc a).keyDown k' = s.keyDown k' := rfl
@[simp] theorem State.setPc_base (s : State) (a : Word) : (s.setPc a).base = s.base := rfl

/-! ### `State.advance` -/

@[simp] theorem State.advance_v (s : State) : (s.advance).v = s.v := rfl
@[simp] theorem State.advance_index (s : State) : (s.advance).index = s.index := rfl
@[simp] theorem State.advance_pc (s : State) : (s.advance).pc = s.pc + 2#16 := rfl
@[simp] theorem State.advance_stack (s : State) : (s.advance).stack = s.stack := rfl
@[simp] theorem State.advance_dt (s : State) : (s.advance).dt = s.dt := rfl
@[simp] theorem State.advance_st (s : State) : (s.advance).st = s.st := rfl
@[simp] theorem State.advance_mem (s : State) : (s.advance).mem = s.mem := rfl
@[simp] theorem State.advance_fb (s : State) : (s.advance).fb = s.fb := rfl
@[simp] theorem State.advance_fbChanged (s : State) : (s.advance).fbChanged = s.fbChanged := rfl
@[simp] theorem State.advance_faultCode (s : State) : (s.advance).faultCode = s.faultCode := rfl
@[simp] theorem State.advance_faultInfo (s : State) : (s.advance).faultInfo = s.faultInfo := rfl
@[simp] theorem State.advance_cfg (s : State) : (s.advance).cfg = s.cfg := rfl
@[simp] theorem State.advance_keys (s : State) : (s.advance).keys = s.keys := rfl
@[simp] theorem State.advance_rnd (s : State) : (s.advance).rnd = s.rnd := rfl
@[simp] theorem State.advance_schedule (s : State) : (s.advance).schedule = s.schedule := rfl
@[simp] theorem State.advance_freeCount (s : State) : (s.advance).freeCount = s.freeCount := rfl
@[simp] theorem State.advance_result (s : State) : (s.advance).result = s.result := rfl
@[simp] theorem State.advance_reg (s : State) (y : RegNum) : (s.advance).reg y = s.reg y := rfl
@[simp] theorem State.advance_byteAt (s : State) (a' : Nat) : (s.advance).byteAt a' = s.byteAt a' := rfl
@[simp] theorem State.advance_readByte (s : State) (a' : Nat) : (s.advance).readByte a' = s.readByte a' := rfl
@[simp] theorem State.advance_cell (s : State) (i : Fin 32) (j : Fin 64) : (s.advance).cell i j = s.cell i j := rfl
@[simp] theorem State.advance_sp (s : State) : (s.advance).sp = s.sp := rfl
@[simp] theorem State.advance_keyDown (s : State) (k' : Nat) : (s.advance).keyDown k' = s.keyDown k' := rfl
@[simp] theorem State.advance_base (s : State) : (s.advance).base = s.base := rfl

/-! ### `State.skipIf` -/

@[simp] theorem State.skipIf_v (s : State) (c : Bool) : (s.skipIf c).v = s.v := rfl
@[simp] theorem State.skipIf_index (s : State) (c : Bool) : (s.skipIf c).index = s.index := rfl
@[simp] theorem State.skipIf_pc (s : State) (c : Bool) : (s.skipIf c).pc = (if c then s.pc + 4#16 else s.pc + 2#16) := rfl
@[simp] theorem State.skipIf_stack (s : State) (c : Bool) : (s.skipIf c).stack = s.stack := rfl
@[simp] theorem State.skipIf_dt (s : State) (c : Bool) : (s.skipIf c).dt = s.dt := rfl
@[simp] theorem State.skipIf_st (s : State) (c : Bool) : (s.skipIf c).st = s.st := rfl
@[simp] theorem State.skipIf_mem (s : State) (c : Bool) : (s.skipIf c).mem = s.mem := rfl
@[simp] theorem State.skipIf_fb (s : State) (c : Bool) : (s.skipIf c).fb = s.fb := rfl
@[simp] theorem State.skipIf_fbChanged (s : State) (c : Bool) : (s.skipIf c).fbChanged = s.fbChanged := rfl
@[simp] theorem State.skipIf_faultCode (s : State) (c : Bool) : (s.skipIf c).faultCode = s.faultCode := rfl
@[simp] theorem State.skipIf_faultInfo (s : State) (c : Bool) : (s.skipIf c).faultInfo = s.faultInfo := rfl
@[simp] theorem State.skipIf_cfg (s : State) (c : Bool) : (s.skipIf c).cfg = s.cfg := rfl
@[simp] theorem State.skipIf_keys (s : State) (c : Bool) : (s.skipIf c).keys = s.keys := rfl
@[simp] theorem State.skipIf_rnd (s : State) (c : Bool) : (s.skipIf c).rnd = s.rnd := rfl
@[simp] theorem State.skipIf_schedule (s : State) (c : Bool) : (s.skipIf c).schedule = s.schedule := rfl
@[simp] theorem State.skipIf_freeCount (s : State) (c : Bool) : (s.skipIf c).freeCount = s.freeCount := rfl
@[simp] theorem State.skipIf_result (s : State) (c : Bool) : (s.skipIf c).result = s.result := rfl
@[simp] theorem State.skipIf_reg (s : State) (c : Bool) (y : RegNum) : (s.skipIf c).reg y = s.reg y := rfl
@[simp] theorem State.skipIf_byteAt (s : State) (c : Bool) (a' : Nat) : (s.skipIf c).byteAt a' = s.byteAt a' := rfl
@[simp] theorem State.skipIf_readByte (s : State) (c : Bool) (a' : Nat) : (s.skipIf c).readByte a' = s.readByte a' := rfl
@[simp] theorem State.skipIf_cell (s : State) (c : Bool) (i : Fin 32) (j : Fin 64) : (s.skipIf c).cell i j = s.cell i j := rfl
@[simp] theorem State.skipIf_sp (s : State) (c : Bool) : (s.skipIf c).sp = s.sp := rfl
@[simp] theorem State.skipIf_keyDown (s : State) (c : Bool) (k' : Nat) : (s.skipIf c).keyDown k' = s.keyDown k' := rfl
@[simp] theorem State.skipIf_base (s : State) (c : Bool) : (s.skipIf c).base = s.base := rfl

/-! ### `State.setFlag` -/

@[simp] theorem State.setFlag_index (s : State) (f : Bool) : (s.setFlag f).index = s.index := rfl
@[simp] theorem State.setFlag_pc (s : State) (f : Bool) : (s.setFlag f).pc = s.pc := rfl
@[simp] theorem State.setFlag_stack (s : State) (f : Bool) : (s.setFlag f).stack = s.stack := rfl
@[simp] theorem State.setFlag_dt (s : State) (f : Bool) : (s.setFlag f).dt = s.dt := rfl
@[simp] theorem State.setFlag_st (s : State) (f : Bool) : (s.setFlag f).st = s.st := rfl
@[simp] theorem State.setFlag_mem (s : State) (f : Bool) : (s.setFlag f).mem = s.mem := rfl
@[simp] theorem State.setFlag_fb (s : State) (f : Bool) : (s.setFlag f).fb = s.fb := rfl
@[simp] theorem State.setFlag_fbChanged (s : State) (f : Bool) : (s.setFlag f).fbChanged = s.fbChanged := rfl
@[simp] theorem State.setFlag_faultCode (s : State) (f : Bool) : (s.setFlag f).faultCode = s.faultCode := rfl
@[simp] theorem State.setFlag_faultInfo (s : State) (f : Bool) : (s.setFlag f).faultInfo = s.faultInfo := rfl
@[simp] theorem State.setFlag_cfg (s : State) (f : Bool) : (s.setFlag f).cfg = s.cfg := rfl
@[simp] theorem State.setFlag_keys (s : State) (f : Bool) : (s.setFlag f).keys = s.keys := rfl
@[simp] theorem State.setFlag_rnd (s : State) (f : Bool) : (s.setFlag f).rnd = s.rnd := rfl
@[simp] theorem State.setFlag_schedule (s : State) (f : Bool) : (s.setFlag f).schedule = s.schedule := rfl
@[simp] theorem State.setFlag_freeCount (s : State) (f : Bool) : (s.setFlag f).freeCount = s.freeCount := rfl
@[simp] theorem State.setFlag_result (s : State) (f : Bool) : (s.setFlag f).result = s.result := rfl
@[simp] theorem State.setFlag_byteAt (s : State) (f : Bool) (a' : Nat) : (s.setFlag f).byteAt a' = s.byteAt a' := rfl
@[simp] theorem State.setFlag_readByte (s : State) (f : Bool) (a' : Nat) : (s.setFlag f).readByte a' = s.readByte a' := rfl
@[simp] theorem State.setFlag_cell (s : State) (f : Bool) (i : Fin 32) (j : Fin 64) : (s.setFlag f).cell i j = s.cell i j := rfl
@[simp] theorem State.setFlag_sp (s : State) (f : Bool) : (s.setFlag f).sp = s.sp := rfl
@[simp] theorem State.setFlag_keyDown (s : State) (f : Bool) (k' : Nat) : (s.setFlag f).keyDown k' = s.keyDown k' := rfl
@[simp] theorem State.setFlag_base (s : State) (f : Bool) : (s.setFlag f).base = s.base := rfl

/-! ### `State.setRegFlag` -/

@[simp] theorem State.setRegFlag_index (s : State) (x : RegNum) (b : Byte) (f : Bool) : (s.setRegFlag x b f).index = s.index := rfl
@[simp] theorem State.setRegFlag_pc (s : State) (x : RegNum) (b : Byte) (f : Bool) : (s.setRegFlag x b f).pc = s.pc := rfl
@[simp] theorem State.setRegFlag_stack (s : State) (x : RegNum) (b : Byte) (f : Bool) : (s.setRegFlag x b f).stack = s.stack := rfl
@[simp] theorem State.setRegFlag_dt (s : State) (x : RegNum) (b : Byte) (f : Bool) : (s.setRegFlag x b f).dt = s.dt := rfl
@[simp] theorem State.setRegFlag_st (s : State) (x : RegNum) (b : Byte) (f : Bool) : (s.setRegFlag x b f).st = s.st := rfl
@[simp] theorem State.setRegFlag_mem (s : State) (x : RegNum) (b : Byte) (f : Bool) : (s.setRegFlag x b f).mem = s.mem := rfl
@[simp] theorem State.setRegFlag_fb (s : State) (x : RegNum) (b : Byte) (f : Bool) : (s.setRegFlag x b f).fb = s.fb := rfl
@[simp] theorem State.setRegFlag_fbChanged (s : State) (x : RegNum) (b : Byte) (f : Bool) : (s.setRegFlag x b f).fbChanged = s.fbChanged := rfl
@[simp] theorem State.setRegFlag_faultCode (s : State) (x : RegNum) (b : Byte) (f : Bool) : (s.setRegFlag x b f).faultCode = s.faultCode := rfl
@[simp] theorem State.setRegFlag_faultInfo (s : State) (x : RegNum) (b : Byte) (f : Bool) : (s.setRegFlag x b f).faultInfo = s.faultInfo := rfl
@[simp] theorem State.setRegFlag_cfg (s : State) (x : RegNum) (b : Byte) (f : Bool) : (s.setRegFlag x b f).cfg = s.cfg := rfl
@[simp] theorem State.setRegFlag_keys (s : State) (x : RegNum) (b : Byte) (f : Bool) : (s.setRegFlag x b f).keys = s.keys := rfl
@[simp] theorem State.setRegFlag_rnd (s : State) (x : RegNum) (b : Byte) (f : Bool) : (s.setRegFlag x b f).rnd = s.rnd := rfl
@[simp] theorem State.setRegFlag_schedule (s : State) (x : RegNum) (b : Byte) (f : Bool) : (s.setRegFlag x b f).schedule = s.schedule := rfl
@[simp] theorem State.setRegFlag_freeCount (s : State) (x : RegNum) (b : Byte) (f : Bool) : (s.setRegFlag x b f).freeCount = s.freeCount := rfl
@[simp] theorem State.setRegFlag_result (s : State) (x : RegNum) (b : Byte) (f : Bool) : (s.setRegFlag x b f).result = s.result := rfl
@[simp] theorem State.setRegFlag_byteAt (s : State) (x : RegNum) (b : Byte) (f : Bool) (a' : Nat) : (s.setRegFlag x b f).byteAt a' = s.byteAt a' := rfl
@[simp] theorem State.setRegFlag_readByte (s : State) (x : RegNum) (b : Byte) (f : Bool) (a' : Nat) : (s.setRegFlag x b f).readByte a' = s.readByte a' := rfl
@[simp] theorem State.setRegFlag_cell (s : State) (x : RegNum) (b : Byte) (f : Bool) (i : Fin 32) (j : Fin 64) : (s.setRegFlag x b f).cell i j = s.cell i j := rfl
@[simp] theorem State.setRegFlag_sp (s : State) (x : RegNum) (b : Byte) (f : Bool) : (s.setRegFlag x b f).sp = s.sp := rfl
@[simp] theorem State.setRegFlag_keyDown (s : State) (x : RegNum) (b : Byte) (f : Bool) (k' : Nat) : (s.setRegFlag x b f).keyDown k' = s.keyDown k' := rfl
@[simp] theorem State.setRegFlag_base (s : State) (x : RegNum) (b : Byte) (f : Bool) : (s.setRegFlag x b f).base = s.base := rfl

/-! ### `State.push` -/

@[simp] theorem State.push_v (s : State) (a : Word) : (s.push a).v = s.v := rfl
@[simp] theorem State.push_index (s : State) (a : Word) : (s.push a).index = s.index := rfl
@[simp] theorem State.push_pc (s : State) (a : Word) : (s.push a).pc = s.pc := rfl
@[simp] theorem State.push_stack (s : State) (a : Word) : (s.push a).stack = a :: s.stack := rfl
@[simp] theorem State.push_dt (s : State) (a : Word) : (s.push a).dt = s.dt := rfl
@[simp] theorem State.push_st (s : State) (a : Word) : (s.push a).st = s.st := rfl
@[simp] theorem State.push_mem (s : State) (a : Word) : (s.push a).mem = s.mem := rfl
@[simp] theorem State.push_fb (s : State) (a : Word) : (s.push a).fb = s.fb := rfl
@[simp] theorem State.push_fbChanged (s : State) (a : Word) : (s.push a).fbChanged = s.fbChanged := rfl
@[simp] theorem State.push_faultCode (s : State) (a : Word) : (s.push a).faultCode = s.faultCode := rfl
@[simp] theorem State.push_faultInfo (s : State) (a : Word) : (s.push a).faultInfo = s.faultInfo := rfl
@[simp] theorem State.push_cfg (s : State) (a : Word) : (s.push a).cfg = s.cfg := rfl
@[simp] theorem State.push_keys (s : State) (a : Word) : (s.push a).keys = s.keys := rfl
@[simp] theorem State.push_rnd (s : State) (a : Word) : (s.push a).rnd = s.rnd := rfl
@[simp] theorem State.push_schedule (s : State) (a : Word) : (s.push a).schedule = s.schedule := rfl
@[simp] theorem State.push_freeCount (s : State) (a : Word) : (s.push a).freeCount = s.freeCount := rfl
@[simp] theorem State.push_result (s : State) (a : Word) : (s.push a).result = s.result := rfl
@[simp] theorem State.push_reg (s : State) (a : Word) (y : RegNum) : (s.push a).reg y = s.reg y := rfl
@[simp] theorem State.push_byteAt (s : State) (a : Word) (a' : Nat) : (s.push a).byteAt a' = s.byteAt a' := rfl
@[simp] theorem State.push_readByte (s : State) (a : Word) (a' : Nat) : (s.push a).readByte a' = s.readByte a' := rfl
@[simp] theorem State.push_cell (s : State) (a : Word) (i : Fin 32) (j : Fin 64) : (s.push a).cell i j = s.cell i j := rfl
@[simp] theorem State.push_sp (s : State) (a : Word) : (s.push a).sp = s.sp + 1 := rfl
@[simp] theorem State.push_keyDown (s : State) (a : Word) (k' : Nat) : (s.push a).keyDown k' = s.keyDown k' := rfl
@[simp] theorem State.push_base (s : State) (a : Word) : (s.push a).base = s.base := rfl

/-! ### `State.writeByte` -/

@[simp] theorem State.writeByte_v (s : State) (a : Nat) (b : Byte) : (s.writeByte a b).v = s.v := rfl
@[simp] theorem State.writeByte_index (s : State) (a : Nat) (b : Byte) : (s.writeByte a b).index = s.index := rfl
@[simp] theorem State.writeByte_pc (s : State) (a : Nat) (b : Byte) : (s.writeByte a b).pc = s.pc := rfl
@[simp] theorem State.writeByte_stack (s : State) (a : Nat) (b : Byte) : (s.writeByte a b).stack = s.stack := rfl
@[simp] theorem State.writeByte_dt (s : State) (a : Nat) (b : Byte) : (s.writeByte a b).dt = s.dt := rfl
@[simp] theorem State.writeByte_st (s : State) (a : Nat) (b : Byte) : (s.writeByte a b).st = s.st := rfl
@[simp] theorem State.writeByte_mem (s : State) (a : Nat) (b : Byte) : (s.writeByte a b).mem = memSet s.cfg.font s.mem a b := rfl
@[simp] theorem State.writeByte_fb (s : State) (a : Nat) (b : Byte) : (s.writeByte a b).fb = s.fb := rfl
@[simp] theorem State.writeByte_fbChanged (s : State) (a : Nat) (b : Byte) : (s.writeByte a b).fbChanged = s.fbChanged := rfl
@[simp] theorem State.writeByte_faultCode (s : State) (a : Nat) (b : Byte) : (s.writeByte a b).faultCode = s.faultCode := rfl
@[simp] theorem State.writeByte_faultInfo (s : State) (a : Nat) (b : Byte) : (s.writeByte a b).faultInfo = s.faultInfo := rfl
@[simp] theorem State.writeByte_cfg (s : State) (a : Nat) (b : Byte) : (s.writeByte a b).cfg = s.cfg := rfl
@[simp] theorem State.writeByte_keys (s : State) (a : Nat) (b : Byte) : (s.writeByte a b).keys = s.keys := rfl
@[simp] theorem State.writeByte_rnd (s : State) (a : Nat) (b : Byte) : (s.writeByte a b).rnd = s.rnd := rfl
@[simp] theorem State.writeByte_schedule (s : State) (a : Nat) (b : Byte) : (s.writeByte a b).schedule = s.schedule := rfl
@[simp] theorem State.writeByte_freeCount (s : State) (a : Nat) (b : Byte) : (s.writeByte a b).freeCount = s.freeCount := rfl
@[simp] theorem State.writeByte_result (s : State) (a : Nat) (b : Byte) : (s.writeByte a b).result = s.result := rfl
@[simp] theorem State.writeByte_reg (s : State) (a : Nat) (b : Byte) (y : RegNum) : (s.writeByte a b).reg y = s.reg y := rfl
@[simp] theorem State.writeByte_cell (s : State) (a : Nat) (b : Byte) (i : Fin 32) (j : Fin 64) : (s.writeByte a b).cell i j = s.cell i j := rfl
@[simp] theorem State.writeByte_sp (s : State) (a : Nat) (b : Byte) : (s.writeByte a b).sp = s.sp := rfl
@[simp] theorem State.writeByte_keyDown (s : State) (a : Nat) (b : Byte) (k' : Nat) : (s.writeByte a b).keyDown k' = s.keyDown k' := rfl
@[simp] theorem State.writeByte_base (s : State) (a : Nat) (b : Byte) : (s.writeByte a b).base = s.base := rfl

/-! ### `State.completed` -/

@[simp] theorem State.completed_v (s : State) (d w : Bool) : (s.completed d w).v = s.v := rfl
@[simp] theorem State.completed_index (s : State) (d w : Bool) : (s.completed d w).index = s.index := rfl
@[simp] theorem State.completed_pc (s : State) (d w : Bool) : (s.completed d w).pc = s.pc := rfl
@[simp] theorem State.completed_stack (s : State) (d w : Bool) : (s.completed d w).stack = s.stack := rfl
@[simp] theorem State.completed_dt (s : State) (d w : Bool) : (s.completed d w).dt = s.dt := rfl
@[simp] theorem State.completed_st (s : State) (d w : Bool) : (s.completed d w).st = s.st := rfl
@[simp] theorem State.completed_mem (s : State) (d w : Bool) : (s.completed d w).mem = s.mem := rfl
@[simp] theorem State.completed_fb (s : State) (d w : Bool) : (s.completed d w).fb = s.fb := rfl
@[simp] theorem State.completed_fbChanged (s : State) (d w : Bool) : (s.completed d w).fbChanged = s.fbChanged := rfl
@[simp] theorem State.completed_faultCode (s : State) (d w : Bool) : (s.completed d w).faultCode = s.faultCode := rfl
@[simp] theorem State.completed_faultInfo (s : State) (d w : Bool) : (s.completed d w).faultInfo = s.faultInfo := rfl
@[simp] theorem State.completed_cfg (s : State) (d w : Bool) : (s.completed d w).cfg = s.cfg := rfl
@[simp] theorem State.completed_keys (s : State) (d w : Bool) : (s.completed d w).keys = s.keys := rfl
@[simp] theorem State.completed_rnd (s : State) (d w : Bool) : (s.completed d w).rnd = s.rnd := rfl
@[simp] theorem State.completed_schedule (s : State) (d w : Bool) : (s.completed d w).schedule = s.schedule := rfl
@[simp] theorem State.completed_freeCount (s : State) (d w : Bool) : (s.completed d w).freeCount = s.freeCount := rfl
@[simp] theorem State.completed_result (s : State) (d w : Bool) : (s.completed d w).result = .completed d w := rfl
@[simp] theorem State.completed_reg (s : State) (d w : Bool) (y : RegNum) : (s.completed d w).reg y = s.reg y := rfl
@[simp] theorem State.completed_byteAt (s : State) (d w : Bool) (a' : Nat) : (s.completed d w).byteAt a' = s.byteAt a' := rfl
@[simp] theorem State.completed_readByte (s : State) (d w : Bool) (a' : Nat) : (s.completed d w).readByte a' = s.readByte a' := rfl
@[simp] theorem State.completed_cell (s : State) (d w : Bool) (i : Fin 32) (j : Fin 64) : (s.completed d w).cell i j = s.cell i j := rfl
@[simp] theorem State.completed_sp (s : State) (d w : Bool) : (s.completed d w).sp = s.sp := rfl
@[simp] theorem State.completed_keyDown (s : State) (d w : Bool) (k' : Nat) : (s.completed d w).keyDown k' = s.keyDown k' := rfl
@[simp] theorem State.completed_base (s : State) (d w : Bool) : (s.completed d w).base = s.base := rfl

/-! ### `State.raised` -/

@[simp] theorem State.raised_v (s : State) (c : FaultCode) (n : Nat) : (s.raised c n).v = s.v := rfl
@[simp] theorem State.raised_index (s : State) (c : FaultCode) (n : Nat) : (s.raised c n).index = s.index := rfl
@[simp] theorem State.raised_pc (s : State) (c : FaultCode) (n : Nat) : (s.raised c n).pc = s.pc := rfl
@[simp] theorem State.raised_stack (s : State) (c : FaultCode) (n : Nat) : (s.raised c n).stack = s.stack := rfl
@[simp] theorem State.raised_dt (s : State) (c : FaultCode) (n : Nat) : (s.raised c n).dt = s.dt := rfl
@[simp] theorem State.raised_st (s : State) (c : FaultCode) (n : Nat) : (s.raised c n).st = s.st := rfl
@[simp] theorem State.raised_mem (s : State) (c : FaultCode) (n : Nat) : (s.raised c n).mem = s.mem := rfl
@[simp] theorem State.raised_fb (s : State) (c : FaultCode) (n : Nat) : (s.raised c n).fb = s.fb := rfl
@[simp] theorem State.raised_fbChanged (s : State) (c : FaultCode) (n : Nat) : (s.raised c n).fbChanged = s.fbChanged := rfl
@[simp] theorem State.raised_faultCode (s : State) (c : FaultCode) (n : Nat) : (s.raised c n).faultCode = c := rfl
@[simp] theorem State.raised_faultInfo (s : State) (c : FaultCode) (n : Nat) : (s.raised c n).faultInfo = n := rfl
@[simp] theorem State.raised_cfg (s : State) (c : FaultCode) (n : Nat) : (s.raised c n).cfg = s.cfg := rfl
@[simp] theorem State.raised_keys (s : State) (c : FaultCode) (n : Nat) : (s.raised c n).keys = s.keys := rfl
@[simp] theorem State.raised_rnd (s : State) (c : FaultCode) (n : Nat) : (s.raised c n).rnd = s.rnd := rfl
@[simp] theorem State.raised_schedule (s : State) (c : FaultCode) (n : Nat) : (s.raised c n).schedule = s.schedule := rfl
@[simp] theorem State.raised_freeCount (s : State) (c : FaultCode) (n : Nat) : (s.raised c n).freeCount = s.freeCount := rfl
@[simp] theorem State.raised_result (s : State) (c : FaultCode) (n : Nat) : (s.raised c n).result = .faulted c := rfl
@[simp] theorem State.raised_reg (s : State) (c : FaultCode) (n : Nat) (y : RegNum) : (s.raised c n).reg y = s.reg y := rfl
@[simp] theorem State.raised_byteAt (s : State) (c : FaultCode) (n : Nat) (a' : Nat) : (s.raised c n).byteAt a' = s.byteAt a' := rfl
@[simp] theorem State.raised_readByte (s : State) (c : FaultCode) (n : Nat) (a' : Nat) : (s.raised c n).readByte a' = s.readByte a' := rfl
@[simp] theorem State.raised_cell (s : State) (c : FaultCode) (n : Nat) (i : Fin 32) (j : Fin 64) : (s.raised c n).cell i j = s.cell i j := rfl
@[simp] theorem State.raised_sp (s : State) (c : FaultCode) (n : Nat) : (s.raised c n).sp = s.sp := rfl
@[simp] theorem State.raised_keyDown (s : State) (c : FaultCode) (n : Nat) (k' : Nat) : (s.raised c n).keyDown k' = s.keyDown k' := rfl
@[simp] theorem State.raised_base (s : State) (c : FaultCode) (n : Nat) : (s.raised c n).base = s.base := rfl

/-! ### `State.withInputs` -/

@[simp] theorem State.withInputs_v (s : State) (k : KeyVector) (r : Byte) : (s.withInputs k r).v = s.v := rfl
@[simp] theorem State.withInputs_index (s : State) (k : KeyVector) (r : Byte) : (s.withInputs k r).index = s.index := rfl
@[simp] theorem State.withInputs_pc (s : State) (k : KeyVector) (r : Byte) : (s.withInputs k r).pc = s.pc := rfl
@[simp] theorem State.withInputs_stack (s : State) (k : KeyVector) (r : Byte) : (s.withInputs k r).stack = s.stack := rfl
@[simp] theorem State.withInputs_dt (s : State) (k : KeyVector) (r : Byte) : (s.withInputs k r).dt = s.dt := rfl
@[simp] theorem State.withInputs_st (s : State) (k : KeyVector) (r : Byte) : (s.withInputs k r).st = s.st := rfl
@[simp] theorem State.withInputs_mem (s : State) (k : KeyVector) (r : Byte) : (s.withInputs k r).mem = s.mem := rfl
@[simp] theorem State.withInputs_fb (s : State) (k : KeyVector) (r : Byte) : (s.withInputs k r).fb = s.fb := rfl
@[simp] theorem State.withInputs_fbChanged (s : State) (k : KeyVector) (r : Byte) : (s.withInputs k r).fbChanged = s.fbChanged := rfl
@[simp] theorem State.withInputs_faultCode (s : State) (k : KeyVector) (r : Byte) : (s.withInputs k r).faultCode = s.faultCode := rfl
@[simp] theorem State.withInputs_faultInfo (s : State) (k : KeyVector) (r : Byte) : (s.withInputs k r).faultInfo = s.faultInfo := rfl
@[simp] theorem State.withInputs_cfg (s : State) (k : KeyVector) (r : Byte) : (s.withInputs k r).cfg = s.cfg := rfl
@[simp] theorem State.withInputs_keys (s : State) (k : KeyVector) (r : Byte) : (s.withInputs k r).keys = k := rfl
@[simp] theorem State.withInputs_rnd (s : State) (k : KeyVector) (r : Byte) : (s.withInputs k r).rnd = r := rfl
@[simp] theorem State.withInputs_schedule (s : State) (k : KeyVector) (r : Byte) : (s.withInputs k r).schedule = s.schedule := rfl
@[simp] theorem State.withInputs_freeCount (s : State) (k : KeyVector) (r : Byte) : (s.withInputs k r).freeCount = s.freeCount := rfl
@[simp] theorem State.withInputs_result (s : State) (k : KeyVector) (r : Byte) : (s.withInputs k r).result = s.result := rfl
@[simp] theorem State.withInputs_reg (s : State) (k : KeyVector) (r : Byte) (y : RegNum) : (s.withInputs k r).reg y = s.reg y := rfl
@[simp] theorem State.withInputs_byteAt (s : State) (k : KeyVector) (r : Byte) (a' : Nat) : (s.withInputs k r).byteAt a' = s.byteAt a' := rfl
@[simp] theorem State.withInputs_readByte (s : State) (k : KeyVector) (r : Byte) (a' : Nat) : (s.withInputs k r).readByte a' = s.readByte a' := rfl
@[simp] theorem State.withInputs_cell (s : State) (k : KeyVector) (r : Byte) (i : Fin 32) (j : Fin 64) : (s.withInputs k r).cell i j = s.cell i j := rfl
@[simp] theorem State.withInputs_sp (s : State) (k : KeyVector) (r : Byte) : (s.withInputs k r).sp = s.sp := rfl
@[simp] theorem State.withInputs_base (s : State) (k : KeyVector) (r : Byte) : (s.withInputs k r).base = s.base := rfl

/-! ### `State.storeFrom` -/

@[simp] theorem State.storeFrom_v (s : State) (a : Nat) (bs : List Byte) : (s.storeFrom a bs).v = s.v := by
  induction bs generalizing s a with
  | nil => rfl
  | cons b bs ih => rw [State.storeFrom, ih, State.writeByte_v]
@[simp] theorem State.storeFrom_index (s : State) (a : Nat) (bs : List Byte) : (s.storeFrom a bs).index = s.index := by
  induction bs generalizing s a with
  | nil => rfl
  | cons b bs ih => rw [State.storeFrom, ih, State.writeByte_index]
@[simp] theorem State.storeFrom_pc (s : State) (a : Nat) (bs : List Byte) : (s.storeFrom a bs).pc = s.pc := by
  induction bs generalizing s a with
  | nil => rfl
  | cons b bs ih => rw [State.storeFrom, ih, State.writeByte_pc]
@[simp] theorem State.storeFrom_stack (s : State) (a : Nat) (bs : List Byte) : (s.storeFrom a bs).stack = s.stack := by
  induction bs generalizing s a with
  | nil => rfl
  | cons b bs ih => rw [State.storeFrom, ih, State.writeByte_stack]
@[simp] theorem State.storeFrom_dt (s : State) (a : Nat) (bs : List Byte) : (s.storeFrom a bs).dt = s.dt := by
  induction bs generalizing s a with
  | nil => rfl
  | cons b bs ih => rw [State.storeFrom, ih, State.writeByte_dt]
@[simp] theorem State.storeFrom_st (s : State) (a : Nat) (bs : List Byte) : (s.storeFrom a bs).st = s.st := by
  induction bs generalizing s a with
  | nil => rfl
  | cons b bs ih => rw [State.storeFrom, ih, State.writeByte_st]
@[simp] theorem State.storeFrom_fb (s : State) (a : Nat) (bs : List Byte) : (s.storeFrom a bs).fb = s.fb := by
  induction bs generalizing s a with
  | nil => rfl
  | cons b bs ih => rw [State.storeFrom, ih, State.writeByte_fb]
@[simp] theorem State.storeFrom_fbChanged (s : State) (a : Nat) (bs : List Byte) : (s.storeFrom a bs).fbChanged = s.fbChanged := by
  induction bs generalizing s a with
  | nil => rfl
  | cons b bs ih => rw [State.storeFrom, ih, State.writeByte_fbChanged]
@[simp] theorem State.storeFrom_faultCode (s : State) (a : Nat) (bs : List Byte) : (s.storeFrom a bs).faultCode = s.faultCode := by
  induction bs generalizing s a with
  | nil => rfl
  | cons b bs ih => rw [State.storeFrom, ih, State.writeByte_faultCode]
@[simp] theorem State.storeFrom_faultInfo (s : State) (a : Nat) (bs : List Byte) : (s.storeFrom a bs).faultInfo = s.faultInfo := by
  induction bs generalizing s a with
  | nil => rfl
  | cons b bs ih => rw [State.storeFrom, ih, State.writeByte_faultInfo]
@[simp] theorem State.storeFrom_cfg (s : State) (a : Nat) (bs : List Byte) : (s.storeFrom a bs).cfg = s.cfg := by
  induction bs generalizing s a with
  | nil => rfl
  | cons b bs ih => rw [State.storeFrom, ih, State.writeByte_cfg]
@[simp] theorem State.storeFrom_keys (s : State) (a : Nat) (bs : List Byte) : (s.storeFrom a bs).keys = s.keys := by
  induction bs generalizing s a with
  | nil => rfl
  | cons b bs ih => rw [State.storeFrom, ih, State.writeByte_keys]
@[simp] theorem State.storeFrom_rnd (s : State) (a : Nat) (bs : List Byte) : (s.storeFrom a bs).rnd = s.rnd := by
  induction bs generalizing s a with
  | nil => rfl
  | cons b bs ih => rw [State.storeFrom, ih, State.writeByte_rnd]
@[simp] theorem State.storeFrom_schedule (s : State) (a : Nat) (bs : List Byte) : (s.storeFrom a bs).schedule = s.schedule := by
  induction bs generalizing s a with
  | nil => rfl
  | cons b bs ih => rw [State.storeFrom, ih, State.writeByte_schedule]
@[simp] theorem State.storeFrom_freeCount (s : State) (a : Nat) (bs : List Byte) : (s.storeFrom a bs).freeCount = s.freeCount := by
  induction bs generalizing s a with
  | nil => rfl
  | cons b bs ih => rw [State.storeFrom, ih, State.writeByte_freeCount]
@[simp] theorem State.storeFrom_result (s : State) (a : Nat) (bs : List Byte) : (s.storeFrom a bs).result = s.result := by
  induction bs generalizing s a with
  | nil => rfl
  | cons b bs ih => rw [State.storeFrom, ih, State.writeByte_result]

/-! ### `State.setRegsFrom` -/

@[simp] theorem State.setRegsFrom_index (s : State) (k : Nat) (bs : List Byte) : (s.setRegsFrom k bs).index = s.index := by
  induction bs generalizing s k with
  | nil => rfl
  | cons b bs ih => rw [State.setRegsFrom, ih, State.setReg_index]
@[simp] theorem State.setRegsFrom_pc (s : State) (k : Nat) (bs : List Byte) : (s.setRegsFrom k bs).pc = s.pc := by
  induction bs generalizing s k with
  | nil => rfl
  | cons b bs ih => rw [State.setRegsFrom, ih, State.setReg_pc]
@[simp] theorem State.setRegsFrom_stack (s : State) (k : Nat) (bs : List Byte) : (s.setRegsFrom k bs).stack = s.stack := by
  induction bs generalizing s k with
  | nil => rfl
  | cons b bs ih => rw [State.setRegsFrom, ih, State.setReg_stack]
@[simp] theorem State.setRegsFrom_dt (s : State) (k : Nat) (bs : List Byte) : (s.setRegsFrom k bs).dt = s.dt := by
  induction bs generalizing s k with
  | nil => rfl
  | cons b bs ih => rw [State.setRegsFrom, ih, State.setReg_dt]
@[simp] theorem State.setRegsFrom_st (s : State) (k : Nat) (bs : List Byte) : (s.setRegsFrom k bs).st = s.st := by
  induction bs generalizing s k with
  | nil => rfl
  | cons b bs ih => rw [State.setRegsFrom, ih, State.setReg_st]
@[simp] theorem State.setRegsFrom_mem (s : State) (k : Nat) (bs : List Byte) : (s.setRegsFrom k bs).mem = s.mem := by
  induction bs generalizing s k with
  | nil => rfl
  | cons b bs ih => rw [State.setRegsFrom, ih, State.setReg_mem]
@[simp] theorem State.setRegsFrom_fb (s : State) (k : Nat) (bs : List Byte) : (s.setRegsFrom k bs).fb = s.fb := by
  induction bs generalizing s k with
  | nil => rfl
  | cons b bs ih => rw [State.setRegsFrom, ih, State.setReg_fb]
@[simp] theorem State.setRegsFrom_fbChanged (s : State) (k : Nat) (bs : List Byte) : (s.setRegsFrom k bs).fbChanged = s.fbChanged := by
  induction bs generalizing s k with
  | nil => rfl
  | cons b bs ih => rw [State.setRegsFrom, ih, State.setReg_fbChanged]
@[simp] theorem State.setRegsFrom_faultCode (s : State) (k : Nat) (bs : List Byte) : (s.setRegsFrom k bs).faultCode = s.faultCode := by
  induction bs generalizing s k with
  | nil => rfl
  | cons b bs ih => rw [State.setRegsFrom, ih, State.setReg_faultCode]
@[simp] theorem State.setRegsFrom_faultInfo (s : State) (k : Nat) (bs : List Byte) : (s.setRegsFrom k bs).faultInfo = s.faultInfo := by
  induction bs generalizing s k with
  | nil => rfl
  | cons b bs ih => rw [State.setRegsFrom, ih, State.setReg_faultInfo]
@[simp] theorem State.setRegsFrom_cfg (s : State) (k : Nat) (bs : List Byte) : (s.setRegsFrom k bs).cfg = s.cfg := by
  induction bs generalizing s k with
  | nil => rfl
  | cons b bs ih => rw [State.setRegsFrom, ih, State.setReg_cfg]
@[simp] theorem State.setRegsFrom_keys (s : State) (k : Nat) (bs : List Byte) : (s.setRegsFrom k bs).keys = s.keys := by
  induction bs generalizing s k with
  | nil => rfl
  | cons b bs ih => rw [State.setRegsFrom, ih, State.setReg_keys]
@[simp] theorem State.setRegsFrom_rnd (s : State) (k : Nat) (bs : List Byte) : (s.setRegsFrom k bs).rnd = s.rnd := by
  induction bs generalizing s k with
  | nil => rfl
  | cons b bs ih => rw [State.setRegsFrom, ih, State.setReg_rnd]
@[simp] theorem State.setRegsFrom_schedule (s : State) (k : Nat) (bs : List Byte) : (s.setRegsFrom k bs).schedule = s.schedule := by
  induction bs generalizing s k with
  | nil => rfl
  | cons b bs ih => rw [State.setRegsFrom, ih, State.setReg_schedule]
@[simp] theorem State.setRegsFrom_freeCount (s : State) (k : Nat) (bs : List Byte) : (s.setRegsFrom k bs).freeCount = s.freeCount := by
  induction bs generalizing s k with
  | nil => rfl
  | cons b bs ih => rw [State.setRegsFrom, ih, State.setReg_freeCount]
@[simp] theorem State.setRegsFrom_result (s : State) (k : Nat) (bs : List Byte) : (s.setRegsFrom k bs).result = s.result := by
  induction bs generalizing s k with
  | nil => rfl
  | cons b bs ih => rw [State.setRegsFrom, ih, State.setReg_result]

end Sys2Proof.Machine
end

