-- ==== Sys2Proof/Laws/Memory.lean ====
section
/-!
SUPPORT. The laws of memory: a read after a write, the canonical form, and what the bounded accesses of Ops.lean answer.
-/

namespace Sys2Proof.Machine

/-! ### One byte -/

theorem memFind_memInsert (m : Memory) (a a' : Nat) (b : Byte) :
    memFind (memInsert a b m) a' = if a = a' then some b else memFind m a' := by
  induction m with
  | nil => simp [memInsert, memFind]
  | cons c m ih =>
    simp only [memInsert]
    split
    · simp [memFind]
    · split
      · rename_i h; subst h; by_cases h' : c.1 = a' <;> simp [memFind, h']
      · rename_i h1 h2
        by_cases h' : c.1 = a'
        · have : a ≠ a' := by omega
          simp [memFind, h', this]
        · simp [memFind, h', ih]

theorem memFind_memRemove (m : Memory) (a a' : Nat) :
    memFind (memRemove a m) a' = if a = a' then none else memFind m a' := by
  induction m with
  | nil => simp [memRemove, memFind]
  | cons c m ih =>
    simp only [memRemove]
    split
    · rename_i h; subst h; rw [ih]; by_cases h' : c.1 = a' <;> simp [memFind, h']
    · rename_i h
      by_cases h' : c.1 = a'
      · have : a ≠ a' := fun e => h (by omega)
        simp [memFind, h', this]
      · simp [memFind, h', ih]

/-- A read after a write of a valid address: the byte written there, and every other byte as before. -/
theorem memGet_memSet (font : Vector Byte 80) (m : Memory) (a a' : Nat) (b : Byte) (h : a < memSize) :
    memGet font (memSet font m a b) a' = if a = a' then b else memGet font m a' := by
  unfold memSet memGet
  rw [if_pos h]
  split
  · rename_i hb; rw [memFind_memRemove]; split
    · rename_i e; subst e; simp [hb]
    · rfl
  · rw [memFind_memInsert]; split <;> rfl

/-- `byteAt` after `writeByte`; there is no byte to write above address 4095. -/
theorem State.writeByte_byteAt (s : State) (a a' : Nat) (b : Byte) :
    (s.writeByte a b).byteAt a' = if a = a' ∧ a < memSize then b else s.byteAt a' := by
  unfold State.writeByte State.byteAt
  by_cases h : a < memSize
  · simp [memGet_memSet _ _ _ _ _ h, h]
  · simp [memSet, h]

/-! ### The canonical form -/

theorem mem_memInsert {m : Memory} {a : Nat} {b : Byte} {c : Host.Cell} (h : c ∈ memInsert a b m) :
    c = (a, b) ∨ c ∈ m := by
  induction m with
  | nil => exact .inl (List.mem_singleton.mp h)
  | cons d m ih =>
    simp only [memInsert] at h
    split at h
    · exact List.mem_cons.mp h
    · split at h
      · rcases List.mem_cons.mp h with h | h
        · exact .inl h
        · exact .inr (List.mem_cons_of_mem _ h)
      · rcases List.mem_cons.mp h with h | h
        · exact .inr (by simp [h])
        · rcases ih h with h | h
          · exact .inl h
          · exact .inr (List.mem_cons_of_mem _ h)

theorem mem_memRemove {m : Memory} {a : Nat} {c : Host.Cell} (h : c ∈ memRemove a m) : c ∈ m := by
  induction m with
  | nil => exact h
  | cons d m ih =>
    simp only [memRemove] at h
    split at h
    · exact List.mem_cons_of_mem _ (ih h)
    · rcases List.mem_cons.mp h with h | h
      · simp [h]
      · exact List.mem_cons_of_mem _ (ih h)

theorem memInsert_sorted {m : Memory} (a : Nat) (b : Byte) (h : m.Pairwise (fun c d => c.1 < d.1)) :
    (memInsert a b m).Pairwise (fun c d => c.1 < d.1) := by
  induction m with
  | nil => simp [memInsert]
  | cons d m ih =>
    have hd := List.pairwise_cons.mp h
    simp only [memInsert]
    split
    · rename_i hlt
      refine List.pairwise_cons.mpr ⟨fun c hc => ?_, h⟩
      rcases List.mem_cons.mp hc with e | hc
      · simpa [e] using hlt
      · exact Nat.lt_trans hlt (hd.1 c hc)
    · split
      · rename_i e; subst e
        exact List.pairwise_cons.mpr ⟨fun c hc => hd.1 c hc, hd.2⟩
      · rename_i h1 h2
        refine List.pairwise_cons.mpr ⟨fun c hc => ?_, ih hd.2⟩
        rcases mem_memInsert hc with e | hc
        · simp only [e]; omega
        · exact hd.1 c hc

theorem memRemove_sorted {m : Memory} (a : Nat) (h : m.Pairwise (fun c d => c.1 < d.1)) :
    (memRemove a m).Pairwise (fun c d => c.1 < d.1) := by
  induction m with
  | nil => simp [memRemove]
  | cons d m ih =>
    have hd := List.pairwise_cons.mp h
    simp only [memRemove]
    split
    · exact ih hd.2
    · exact List.pairwise_cons.mpr ⟨fun c hc => hd.1 c (mem_memRemove hc), ih hd.2⟩

/-- A write keeps the canonical form. -/
theorem Memory.wf_memSet {font : Vector Byte 80} {m : Memory} (a : Nat) (b : Byte) (h : Memory.wf font m) :
    Memory.wf font (memSet font m a b) := by
  unfold memSet
  split
  · rename_i ha
    split
    · exact ⟨memRemove_sorted a h.1, fun c hc => h.2 c (mem_memRemove hc)⟩
    · rename_i hb
      refine ⟨memInsert_sorted a b h.1, fun c hc => ?_⟩
      rcases mem_memInsert hc with e | hc
      · subst e; exact ⟨ha, hb⟩
      · exact h.2 c hc
  · exact h

/-- The empty memory, that of the reset state, is in canonical form. -/
theorem Memory.wf_nil (font : Vector Byte 80) : Memory.wf font [] := by simp [Memory.wf]

/-- Every state's memory stays in canonical form through any number of byte writes. -/
theorem State.storeFrom_wf (s : State) (a : Nat) (bs : List Byte) (h : Memory.wf s.cfg.font s.mem) :
    Memory.wf s.cfg.font (s.storeFrom a bs).mem := by
  induction bs generalizing s a with
  | nil => exact h
  | cons b bs ih => exact ih (s.writeByte a b) (a + 1) (Memory.wf_memSet a b h)

/-- The memory of the reset state is in canonical form. -/
theorem State.reset_mem_wf : Memory.wf State.reset.cfg.font State.reset.mem := Memory.wf_nil _

/-! ### Several bytes -/

theorem inBounds_iff (a n : Nat) : inBounds a n = true ↔ n = 0 ∨ a + n ≤ 4096 := by
  exact decide_eq_true_iff

/-- The bytes read are one per address. -/
theorem State.bytesFrom_eq (s : State) (a n : Nat) :
    s.bytesFrom a n = (List.range n).map (fun k => s.byteAt (a + k)) := by
  induction n generalizing a with
  | zero => rfl
  | succ n ih =>
    rw [State.bytesFrom, ih, List.range_succ_eq_map, List.map_cons, List.map_map]
    refine congrArg₂ _ rfl (List.map_congr_left fun k _ => ?_)
    show s.byteAt (a + 1 + k) = s.byteAt (a + (k + 1))
    congr 1; omega

@[simp] theorem State.bytesFrom_length (s : State) (a n : Nat) : (s.bytesFrom a n).length = n := by
  simp [State.bytesFrom_eq]

theorem State.bytesFrom_getElem (s : State) (a n k : Nat) (h : k < (s.bytesFrom a n).length) :
    (s.bytesFrom a n)[k] = s.byteAt (a + k) := by
  simp [State.bytesFrom_eq]

/-- `storeFrom` within memory: the stored bytes at their addresses, every other byte as before. -/
theorem State.storeFrom_byteAt (s : State) (a a' : Nat) (bs : List Byte) (h : a + bs.length ≤ memSize) :
    (s.storeFrom a bs).byteAt a' = if a ≤ a' then bs[a' - a]?.getD (s.byteAt a') else s.byteAt a' := by
  induction bs generalizing s a with
  | nil => simp [State.storeFrom]
  | cons b bs ih =>
    simp only [List.length_cons] at h
    rw [State.storeFrom, ih _ _ (by omega), State.writeByte_byteAt]
    by_cases h1 : a + 1 ≤ a'
    · have h2 : ¬ (a = a' ∧ a < memSize) := by omega
      have h3 : a' - a = a' - (a + 1) + 1 := by omega
      rw [if_pos h1, if_neg h2, if_pos (by omega), h3, List.getElem?_cons_succ]
    · rw [if_neg h1]
      by_cases h2 : a = a'
      · subst h2
        rw [if_pos ⟨rfl, by omega⟩]; simp
      · rw [if_neg (by omega), if_neg (by omega)]

/-- What a bounded read answers: all the bytes when every address is valid, else nothing. -/
theorem State.readBytes_eq (s : State) (a n : Nat) :
    s.readBytes a n = if n = 0 ∨ a + n ≤ 4096 then some (s.bytesFrom a n) else none := by
  unfold State.readBytes
  simp only [inBounds_iff]

/-- What a bounded write answers: all the stores when every address is valid, else nothing. -/
theorem State.writeBytes_eq (s : State) (a : Nat) (bs : List Byte) :
    s.writeBytes a bs = if bs.length = 0 ∨ a + bs.length ≤ 4096 then some (s.storeFrom a bs) else none := by
  unfold State.writeBytes
  simp only [inBounds_iff]

/-- A read of no byte, or of valid addresses only, answers the bytes. -/
theorem State.readBytes_of_le {s : State} {a n : Nat} (h : n = 0 ∨ a + n ≤ 4096) :
    s.readBytes a n = some (s.bytesFrom a n) := by
  rw [State.readBytes_eq, if_pos h]

/-- A read that reaches above address 4095 answers nothing. -/
theorem State.readBytes_of_gt {s : State} {a n : Nat} (h0 : 0 < n) (h : 4096 < a + n) : s.readBytes a n = none := by
  rw [State.readBytes_eq, if_neg (by omega)]

/-- A write of valid addresses only answers the state with the bytes stored. -/
theorem State.writeBytes_of_le {s : State} {a : Nat} {bs : List Byte} (h : a + bs.length ≤ 4096) :
    s.writeBytes a bs = some (s.storeFrom a bs) := by
  rw [State.writeBytes_eq, if_pos (.inr h)]

/-- A write that reaches above address 4095 answers nothing. -/
theorem State.writeBytes_of_gt {s : State} {a : Nat} {bs : List Byte} (h0 : 0 < bs.length) (h : 4096 < a + bs.length) :
    s.writeBytes a bs = none := by
  rw [State.writeBytes_eq, if_neg (by omega)]

/-- `readByte` is `byteAt` on the valid addresses and nothing above. -/
theorem State.readByte_eq (s : State) (a : Nat) :
    s.readByte a = if a < 4096 then some (s.byteAt a) else none := rfl

/-- Each stored byte reads back at its address. -/
theorem State.storeFrom_readByte {s : State} {a : Nat} {bs : List Byte} (h : a + bs.length ≤ 4096) {k : Nat}
    (hk : k < bs.length) : (s.storeFrom a bs).readByte (a + k) = bs[k]? := by
  rw [State.readByte_eq, if_pos (by omega), State.storeFrom_byteAt _ _ _ _ h, if_pos (by omega)]
  simp [hk]

/-- Every byte outside the stored ones reads as before. -/
theorem State.storeFrom_readByte_outside {s : State} {a : Nat} {bs : List Byte} (h : a + bs.length ≤ 4096) {a' : Nat}
    (ha : a' < a ∨ a + bs.length ≤ a') : (s.storeFrom a bs).readByte a' = s.readByte a' := by
  rw [State.readByte_eq, State.readByte_eq, State.storeFrom_byteAt _ _ _ _ h]
  by_cases h1 : a ≤ a'
  · rw [if_pos h1, List.getElem?_eq_none (by omega)]; rfl
  · rw [if_neg h1]

end Sys2Proof.Machine
end

