-- ==== Sys2Proof/Laws/Cycle.lean ====
section
/-!
SUPPORT. What the instruction cycle and a move of the run answer, case by case: what a proof about `step` cites instead of
unfolding it.
-/

namespace Sys2Proof.Machine

/-- What the fetch answers (R51, R125). -/
theorem fetchWord_eq (s : State) :
    fetchWord s = if s.pc.toNat ≤ 0xFFE then some (wordOfBytes (s.byteAt s.pc.toNat) (s.byteAt (s.pc.toNat + 1))) else none := by
  have h : inBounds s.pc.toNat 2 = true ↔ s.pc.toNat ≤ 0xFFE := by rw [inBounds_iff]; omega
  unfold fetchWord
  simp only [h]

@[simp] theorem fetchWord_withInputs (s : State) (k : KeyVector) (r : Byte) : fetchWord (s.withInputs k r) = fetchWord s := rfl

/-- A `Step` while the latch is set (R129). -/
theorem coreStep_latched {s : State} (h : s.faultCode ≠ .none) :
    coreStep s = .next { s with result := .faulted s.faultCode } := if_pos h

/-- A `Step` that cannot fetch (R125). -/
theorem coreStep_of_fetch_none {s : State} (hf : s.faultCode = .none) (hw : fetchWord s = none) :
    coreStep s = .next (s.raised .fetchOutOfBounds s.pc.toNat) := by
  unfold coreStep; rw [if_neg (not_not_intro hf), hw]; rfl

/-- A `Step` whose word the decoder rejects (R121). -/
theorem coreStep_of_reject {s : State} {w : Word} {r : Rejection} (hf : s.faultCode = .none) (hw : fetchWord s = some w)
    (hd : decode s.cfg.undocOps w = .error r) : coreStep s = .next (s.raised .unrecognizedOpcode w.toNat) := by
  unfold coreStep; rw [if_neg (not_not_intro hf), hw]; dsimp only; rw [hd]; rfl

/-- A `Step` whose word decodes to `i` runs `i` (R58). -/
theorem coreStep_of_decode {s : State} {w : Word} {i : Instr} (hf : s.faultCode = .none) (hw : fetchWord s = some w)
    (hd : decode s.cfg.undocOps w = .ok i) : coreStep s = exec i s := by
  unfold coreStep; rw [if_neg (not_not_intro hf), hw]; dsimp only; rw [hd]

/-- Everything a `Step` can do (R58): report the latch, fault in the fetch, fault in the decoder, or run the instruction. -/
theorem coreStep_cases {s t : State} (h : coreStep s = .next t) :
    (s.faultCode ≠ .none ∧ t = { s with result := .faulted s.faultCode }) ∨
    (s.faultCode = .none ∧ 0xFFE < s.pc.toNat ∧ t = s.raised .fetchOutOfBounds s.pc.toNat) ∨
    (∃ w r, s.faultCode = .none ∧ s.pc.toNat ≤ 0xFFE ∧ fetchWord s = some w ∧ decode s.cfg.undocOps w = .error r ∧
      t = s.raised .unrecognizedOpcode w.toNat) ∨
    (∃ w i, s.faultCode = .none ∧ s.pc.toNat ≤ 0xFFE ∧ fetchWord s = some w ∧ decode s.cfg.undocOps w = .ok i ∧
      exec i s = .next t) := by
  unfold coreStep at h
  split at h
  · rename_i hf; cases h; exact .inl ⟨hf, rfl⟩
  · rename_i hf
    have hf : s.faultCode = .none := by simpa using hf
    by_cases hp : s.pc.toNat ≤ 0xFFE
    · have hw := fetchWord_eq s
      rw [if_pos hp] at hw
      rw [hw] at h
      dsimp only at h
      split at h
      · rename_i r hd; cases h; exact .inr (.inr (.inl ⟨_, r, hf, hp, hw, hd, rfl⟩))
      · rename_i i hd; exact .inr (.inr (.inr ⟨_, i, hf, hp, hw, hd, h⟩))
    · have hw := fetchWord_eq s
      rw [if_neg hp] at hw
      rw [hw] at h
      cases h
      exact .inr (.inl ⟨hf, by omega, rfl⟩)

/-- A move of the run with an empty schedule: a `Step` with free inputs (log 3). -/
theorem step_nil {s : State} (h : s.schedule = []) :
    step s = coreStep { s with
      keys := Config.freeKeys s.freeCount, rnd := Config.freeRnd s.freeCount, freeCount := s.freeCount + 1 } := by
  rw [step, turn, nextMove, h]
  dsimp only [perform, State.withInputs]

/-- A move of the run whose schedule names it (R161). -/
theorem step_cons {s : State} {m : HostMove} {rest : List HostMove} (h : s.schedule = m :: rest) :
    step s = perform m { s with schedule := rest } := by
  rw [step, turn, nextMove, h]

/-- Everything a move of the run can be: a `Step` of a state that differs in its inputs and the schedule only, or one of the
host's operations. -/
theorem step_cases {s t : State} (h : step s = .next t) :
    (∃ keys rnd rest count, coreStep { s with keys := keys, rnd := rnd, schedule := rest, freeCount := count } = .next t) ∨
    (∃ rest, t = hostReset { s with schedule := rest }) ∨
    (∃ rest bytes, t = hostLoadProgram bytes { s with schedule := rest }) ∨
    (∃ rest i v, t = hostSetRegister i v { s with schedule := rest }) ∨
    (∃ rest, t = hostTimerTick { s with schedule := rest }) ∨
    (∃ rest, t = hostAckFramebuffer { s with schedule := rest }) := by
  cases hs : s.schedule with
  | nil =>
    rw [step_nil hs] at h
    exact .inl ⟨_, _, s.schedule, _, h⟩
  | cons m rest =>
    rw [step_cons hs] at h
    cases m with
    | step k r => exact .inl ⟨k, r, rest, s.freeCount, h⟩
    | reset => cases h; exact .inr (.inl ⟨rest, rfl⟩)
    | loadProgram bytes => cases h; exact .inr (.inr (.inl ⟨rest, bytes, rfl⟩))
    | setRegister i v => cases h; exact .inr (.inr (.inr (.inl ⟨rest, i, v, rfl⟩)))
    | timerTick => cases h; exact .inr (.inr (.inr (.inr (.inl ⟨rest, rfl⟩))))
    | ackFramebuffer => cases h; exact .inr (.inr (.inr (.inr (.inr ⟨rest, rfl⟩))))

end Sys2Proof.Machine
end

