-- ==== Sys2Proof/Laws/Decode.lean ====
section
/-!
SUPPORT. The fields of the words the encoder builds, and a word as its fields: what a proof about decoding cites.
-/

namespace Sys2Proof

/-! ### The fields of each format (R52) -/

@[simp] theorem fieldT_wordAddr (t : BitVec 4) (nnn : Addr12) : fieldT (wordAddr t nnn) = t := by
  apply BitVec.eq_of_getLsbD_eq; intro i hi
  simp only [fieldT, wordAddr, BitVec.getLsbD_extractLsb', BitVec.getLsbD_append]
  simp [hi]

@[simp] theorem fieldNNN_wordAddr (t : BitVec 4) (nnn : Addr12) : fieldNNN (wordAddr t nnn) = nnn := by
  apply BitVec.eq_of_getLsbD_eq; intro i hi
  simp only [fieldNNN, wordAddr, BitVec.getLsbD_extractLsb', BitVec.getLsbD_append]
  simp [hi]

@[simp] theorem fieldT_wordRegByte (t : BitVec 4) (x : RegNum) (nn : Byte) : fieldT (wordRegByte t x nn) = t := by
  apply BitVec.eq_of_getLsbD_eq; intro i hi
  simp only [fieldT, wordRegByte, BitVec.getLsbD_extractLsb', BitVec.getLsbD_append]
  have h1 : ¬ 12 + i < 8 := by omega
  have h2 : ¬ 12 + i - 8 < 4 := by omega
  have h3 : 12 + i - 8 - 4 = i := by omega
  simp [hi, h1, h2, h3]

@[simp] theorem fieldX_wordRegByte (t : BitVec 4) (x : RegNum) (nn : Byte) : fieldX (wordRegByte t x nn) = x := by
  apply BitVec.eq_of_getLsbD_eq; intro i hi
  simp only [fieldX, wordRegByte, BitVec.getLsbD_extractLsb', BitVec.getLsbD_append]
  simp [hi]

@[simp] theorem fieldNN_wordRegByte (t : BitVec 4) (x : RegNum) (nn : Byte) : fieldNN (wordRegByte t x nn) = nn := by
  apply BitVec.eq_of_getLsbD_eq; intro i hi
  simp only [fieldNN, wordRegByte, BitVec.getLsbD_extractLsb', BitVec.getLsbD_append]
  simp [hi]

@[simp] theorem fieldT_wordRegReg (t : BitVec 4) (x y : RegNum) (n : Nibble) : fieldT (wordRegReg t x y n) = t := by
  apply BitVec.eq_of_getLsbD_eq; intro i hi
  simp only [fieldT, wordRegReg, BitVec.getLsbD_extractLsb', BitVec.getLsbD_append]
  have h1 : ¬ 12 + i < 4 := by omega
  have h2 : ¬ 12 + i - 4 < 4 := by omega
  have h3 : ¬ 12 + i - 4 - 4 < 4 := by omega
  have h4 : 12 + i - 4 - 4 - 4 = i := by omega
  simp [hi, h1, h2, h3, h4]

@[simp] theorem fieldX_wordRegReg (t : BitVec 4) (x y : RegNum) (n : Nibble) : fieldX (wordRegReg t x y n) = x := by
  apply BitVec.eq_of_getLsbD_eq; intro i hi
  simp only [fieldX, wordRegReg, BitVec.getLsbD_extractLsb', BitVec.getLsbD_append]
  have h1 : ¬ 8 + i < 4 := by omega
  have h2 : ¬ 8 + i - 4 < 4 := by omega
  have h3 : 8 + i - 4 - 4 = i := by omega
  simp [hi, h1, h2, h3]

@[simp] theorem fieldY_wordRegReg (t : BitVec 4) (x y : RegNum) (n : Nibble) : fieldY (wordRegReg t x y n) = y := by
  apply BitVec.eq_of_getLsbD_eq; intro i hi
  simp only [fieldY, wordRegReg, BitVec.getLsbD_extractLsb', BitVec.getLsbD_append]
  simp [hi]

@[simp] theorem fieldN_wordRegReg (t : BitVec 4) (x y : RegNum) (n : Nibble) : fieldN (wordRegReg t x y n) = n := by
  apply BitVec.eq_of_getLsbD_eq; intro i hi
  simp only [fieldN, wordRegReg, BitVec.getLsbD_extractLsb', BitVec.getLsbD_append]
  simp [hi]

/-! ### A word as its fields -/

theorem wordAddr_fields (w : Word) : wordAddr (fieldT w) (fieldNNN w) = w := by
  apply BitVec.eq_of_getLsbD_eq; intro i hi
  simp only [fieldT, fieldNNN, wordAddr, BitVec.getLsbD_extractLsb', BitVec.getLsbD_append]
  split
  · simp [*]
  · have h1 : i - 12 < 4 := by omega
    have h2 : 12 + (i - 12) = i := by omega
    simp [h1, h2]

theorem wordRegByte_fields (w : Word) : wordRegByte (fieldT w) (fieldX w) (fieldNN w) = w := by
  apply BitVec.eq_of_getLsbD_eq; intro i hi
  simp only [fieldT, fieldX, fieldNN, wordRegByte, BitVec.getLsbD_extractLsb', BitVec.getLsbD_append]
  split
  · simp [*]
  · split
    · have h2 : 8 + (i - 8) = i := by omega
      simp [*]
    · have h1 : i - 8 - 4 < 4 := by omega
      have h2 : 12 + (i - 8 - 4) = i := by omega
      simp [h1, h2]

theorem wordRegReg_fields (w : Word) : wordRegReg (fieldT w) (fieldX w) (fieldY w) (fieldN w) = w := by
  apply BitVec.eq_of_getLsbD_eq; intro i hi
  simp only [fieldT, fieldX, fieldY, fieldN, wordRegReg, BitVec.getLsbD_extractLsb', BitVec.getLsbD_append]
  split
  · simp [*]
  · split
    · have h2 : 4 + (i - 4) = i := by omega
      simp [*]
    · split
      · have h2 : 8 + (i - 4 - 4) = i := by omega
        simp [*]
      · have h1 : i - 4 - 4 - 4 < 4 := by omega
        have h2 : 12 + (i - 4 - 4 - 4) = i := by omega
        simp [h1, h2]

/-! ### The fields as numbers -/

theorem fieldT_toNat (w : Word) : (fieldT w).toNat = w.toNat / 4096 := by
  have := w.isLt
  simp only [fieldT, BitVec.extractLsb'_toNat, Nat.shiftRight_eq_div_pow]; omega

theorem fieldN_toNat (w : Word) : (fieldN w).toNat = w.toNat % 16 := by
  simp only [fieldN, BitVec.extractLsb'_toNat, Nat.shiftRight_eq_div_pow]; omega

theorem fieldNN_toNat (w : Word) : (fieldNN w).toNat = w.toNat % 256 := by
  simp only [fieldNN, BitVec.extractLsb'_toNat, Nat.shiftRight_eq_div_pow]; omega

/-! ### The fields of a masked word: how a match and a mask of the opcode table fix a field -/

theorem fieldT_and (w m : Word) : fieldT (w &&& m) = fieldT w &&& fieldT m := by
  apply BitVec.eq_of_getLsbD_eq; intro i hi; simp [fieldT, hi]

theorem fieldN_and (w m : Word) : fieldN (w &&& m) = fieldN w &&& fieldN m := by
  apply BitVec.eq_of_getLsbD_eq; intro i hi; simp [fieldN, hi]

theorem fieldNN_and (w m : Word) : fieldNN (w &&& m) = fieldNN w &&& fieldNN m := by
  apply BitVec.eq_of_getLsbD_eq; intro i hi; simp [fieldNN, hi]

/-- A match whose mask covers the top nibble fixes it. -/
theorem fieldT_of_match {w m p : Word} (h : w &&& m = p) (hm : fieldT m = 15#4) : fieldT w = fieldT p := by
  rw [← h, fieldT_and, hm]; generalize fieldT w = t; revert t; decide

/-- A match whose mask covers the low nibble fixes it. -/
theorem fieldN_of_match {w m p : Word} (h : w &&& m = p) (hm : fieldN m = 15#4) : fieldN w = fieldN p := by
  rw [← h, fieldN_and, hm]; generalize fieldN w = t; revert t; decide

/-- A match whose mask covers the low byte fixes it. -/
theorem fieldNN_of_match {w m p : Word} (h : w &&& m = p) (hm : fieldNN m = 255#8) : fieldNN w = fieldNN p := by
  rw [← h, fieldNN_and, hm]
  apply BitVec.eq_of_getLsbD_eq; intro i hi
  rw [show (255#8 : BitVec 8) = BitVec.allOnes 8 from rfl, BitVec.and_allOnes]

/-- A top nibble that is none of the other fifteen is 0xF: the last branch of `decode` is family F. -/
theorem nibble_eq_F (t : BitVec 4) (h0 : t ≠ 0#4) (h1 : t ≠ 1#4) (h2 : t ≠ 2#4) (h3 : t ≠ 3#4) (h4 : t ≠ 4#4)
    (h5 : t ≠ 5#4) (h6 : t ≠ 6#4) (h7 : t ≠ 7#4) (h8 : t ≠ 8#4) (h9 : t ≠ 9#4) (hA : t ≠ 10#4) (hB : t ≠ 11#4)
    (hC : t ≠ 12#4) (hD : t ≠ 13#4) (hE : t ≠ 14#4) : t = 15#4 := by
  bv_omega

/-! ### The decoder by family (R54): once the top nibble is known, one branch is left -/

/-- The decoder on a word of format `ADDR`. -/
theorem decode_wordAddr (u : UndocOps) (nnn : Addr12) :
    decode u (wordAddr 0x1 nnn) = .ok (.jp nnn) ∧ decode u (wordAddr 0x2 nnn) = .ok (.call nnn) ∧
    decode u (wordAddr 0xA nnn) = whenImplemented u (wordAddr 0xA nnn) (.ldI nnn) ∧
    decode u (wordAddr 0xB nnn) = .ok (.jpV0 nnn) := by
  refine ⟨?_, ?_, ?_, ?_⟩ <;> simp [decode]

/-- The high byte of `bytesOfWord` joined to the low byte is the word again (R33). -/
theorem wordOfBytes_bytesOfWord (w : Word) : wordOfBytes (w.extractLsb' 8 8) (w.extractLsb' 0 8) = w := by
  apply BitVec.eq_of_getLsbD_eq; intro i hi
  simp only [wordOfBytes, BitVec.getLsbD_extractLsb', BitVec.getLsbD_append]
  split
  · simp [*]
  · have h1 : i - 8 < 8 := by omega
    have h2 : 8 + (i - 8) = i := by omega
    simp [h1, h2]

/-- Big-endian as a number (R33, R51). -/
theorem wordOfBytes_toNat (hi lo : Byte) : (wordOfBytes hi lo).toNat = hi.toNat * 256 + lo.toNat := by
  rw [wordOfBytes, BitVec.toNat_append, Nat.shiftLeft_eq]
  have := lo.isLt
  rw [show hi.toNat * 2 ^ 8 = 2 ^ 8 * hi.toNat from Nat.mul_comm _ _, ← Nat.two_pow_add_eq_or_of_lt this]
  omega

end Sys2Proof
end

