-- ==== Sys2Proof/Laws/Draw.lean ====
section
/-!
SUPPORT. What drawing a sprite does to the framebuffer (spec/42_draw.md R95): the two loops as one pass over a list of
pixels whose cells are all different, then each cell and the collision by themselves.
-/

namespace Sys2Proof.Machine

/-- A read after the write of one cell. -/
theorem fbGet_fbSet (fb : Framebuffer) (row row' : Fin 32) (col col' : Fin 64) (bit : Bool) :
    fbGet (fbSet fb row col bit) row' col' = if row' = row ∧ col' = col then bit else fbGet fb row' col' := by
  unfold fbGet fbSet
  simp only [Fin.getElem_fin, Vector.getElem_set]
  by_cases hr : row' = row
  · subst hr
    by_cases hc : col' = col
    · subst hc; simp
    · have : ¬ col.val = col'.val := fun e => hc (Fin.ext e.symm)
      simp [hc, this]
  · have : ¬ row.val = row'.val := fun e => hr (Fin.ext e.symm)
    simp [hr, this]

@[simp] theorem fbGet_fbClear (row : Fin 32) (col : Fin 64) : fbGet fbClear row col = false := by
  simp [fbGet, fbClear]

/-- Two framebuffers whose cells all agree are equal. -/
theorem fb_ext {fb fb' : Framebuffer} (h : ∀ row col, fbGet fb row col = fbGet fb' row col) : fb = fb' :=
  Vector.ext fun i hi => Vector.ext fun j hj => h ⟨i, hi⟩ ⟨j, hj⟩

/-- A cell after one pixel. -/
theorem plotPixel_cell (p : Framebuffer × Bool) (q : Fin 32 × Fin 64) (bit : Bool) (row : Fin 32) (col : Fin 64) :
    fbGet (plotPixel p q bit).1 row col = (fbGet p.1 row col ^^ (decide ((row, col) = q) && bit)) := by
  rw [plotPixel, fbGet_fbSet]
  by_cases h : row = q.1 ∧ col = q.2
  · obtain ⟨rfl, rfl⟩ := h; simp
  · have : (row, col) ≠ q := fun e => h (by subst e; exact ⟨rfl, rfl⟩)
    rw [if_neg h]; simp [this]

/-- A pass over pixels whose cells are all different: a cell is inverted exactly by a 1 bit that falls on it, and a collision
is a 1 bit on a cell that was on before the pass. -/
theorem plot_pixels (l : List ((Fin 32 × Fin 64) × Bool)) (hn : (l.map Prod.fst).Nodup) (p : Framebuffer × Bool) :
    (∀ row col, fbGet (l.foldl (fun p q => plotPixel p q.1 q.2) p).1 row col =
      (fbGet p.1 row col ^^ decide (((row, col), true) ∈ l))) ∧
    ((l.foldl (fun p q => plotPixel p q.1 q.2) p).2 = true ↔
      p.2 = true ∨ ∃ row col, ((row, col), true) ∈ l ∧ fbGet p.1 row col = true) := by
  induction l generalizing p with
  | nil => simp
  | cons a l ih =>
    obtain ⟨⟨ra, ca⟩, ba⟩ := a
    rw [List.map_cons, List.nodup_cons] at hn
    have hnot : ∀ b, ((ra, ca), b) ∉ l := fun b hb => hn.1 (List.mem_map.mpr ⟨_, hb, rfl⟩)
    obtain ⟨ih1, ih2⟩ := ih hn.2 (plotPixel p (ra, ca) ba)
    refine ⟨fun row col => ?_, ?_⟩
    · rw [List.foldl_cons, ih1, plotPixel_cell]
      by_cases e : (row, col) = (ra, ca)
      · cases e
        cases ba <;> simp [hnot]
      · simp only [List.mem_cons, Prod.mk.injEq]
        have : ¬ (row = ra ∧ col = ca) := fun h => e (by rw [h.1, h.2])
        simp [this]
    · rw [List.foldl_cons, ih2]
      constructor
      · rintro (h | ⟨row, col, h1, h2⟩)
        · simp only [plotPixel, Bool.or_eq_true, Bool.and_eq_true] at h
          rcases h with h | ⟨h1, h2⟩
          · exact .inl h
          · exact .inr ⟨ra, ca, by simp [h1], h2⟩
        · refine .inr ⟨row, col, List.mem_cons_of_mem _ h1, ?_⟩
          have e : (row, col) ≠ (ra, ca) := fun e => hnot true (e ▸ h1)
          rw [plotPixel_cell] at h2
          simpa [e] using h2
      · rintro (h | ⟨row, col, h1, h2⟩)
        · exact .inl (by simp [plotPixel, h])
        · rcases List.mem_cons.mp h1 with e | h1
          · cases e
            exact .inl (by simp [plotPixel, h2])
          · refine .inr ⟨row, col, h1, ?_⟩
            have e : (row, col) ≠ (ra, ca) := fun e => hnot true (e ▸ h1)
            rw [plotPixel_cell]; simpa [e] using h2

/-- The columns of one row as a pass over pixels. -/
theorem drawColumns_eq (edge : DrawEdge) (x0 y0 : Byte) (r : Nat) (b : Byte) (c k : Nat) (p : Framebuffer × Bool) :
    drawColumns edge x0 y0 r b c k p =
      ((List.range k).map fun j => (spriteCell edge x0 y0 r (c + j), spriteBit b (c + j))).foldl
        (fun p q => plotPixel p q.1 q.2) p := by
  induction k generalizing c p with
  | zero => rfl
  | succ k ih =>
    rw [drawColumns, ih, List.range_succ_eq_map, List.map_cons, List.map_map, List.foldl_cons]
    refine congrArg₂ _ rfl (List.map_congr_left fun j _ => ?_)
    have e : c + 1 + j = c + (j + 1) := by omega
    simp only [e, Function.comp, Nat.succ_eq_add_one]

/-- All rows as a pass over pixels. -/
theorem drawRows_eq (edge : DrawEdge) (x0 y0 : Byte) (r : Nat) (bs : List Byte) (p : Framebuffer × Bool) :
    drawRows edge x0 y0 r bs p =
      (((List.range bs.length ×ˢ List.range 8)).map fun q =>
        (spriteCell edge x0 y0 (r + q.1) q.2, spriteBit (bs.getD q.1 0#8) q.2)).foldl
        (fun p q => plotPixel p q.1 q.2) p := by
  induction bs generalizing r p with
  | nil => rfl
  | cons b bs ih =>
    rw [drawRows, ih, drawColumns_eq, List.length_cons, List.range_succ_eq_map (n := bs.length), List.product_cons,
      List.map_append, List.foldl_append, List.map_map]
    have h1 : ((List.range 8).map fun j => (spriteCell edge x0 y0 r (0 + j), spriteBit b (0 + j))) =
        (List.range 8).map ((fun q : Nat × Nat =>
          (spriteCell edge x0 y0 (r + q.1) q.2, spriteBit ((b :: bs).getD q.1 0#8) q.2)) ∘ fun j => (0, j)) :=
      List.map_congr_left fun j _ => by simp
    rw [h1]
    refine congrArg₂ _ rfl ?_
    have h2 : ((List.range bs.length).map Nat.succ ×ˢ List.range 8) =
        (List.range bs.length ×ˢ List.range 8).map fun q => (q.1 + 1, q.2) := by
      simp only [SProd.sprod, List.product, List.flatMap_map, List.map_flatMap, List.map_map]
      rfl
    rw [h2, List.map_map]
    refine List.map_congr_left fun q _ => ?_
    have e : r + 1 + q.1 = r + (q.1 + 1) := by omega
    simp only [Function.comp, e, List.getD_cons_succ]

/-- The pixels of at most 32 rows fall on cells that are all different. -/
theorem spriteCells_nodup (x0 y0 : Byte) (bs : List Byte) (h : bs.length ≤ 32) :
    (((List.range bs.length ×ˢ List.range 8).map fun q =>
      (spriteCell .wrap x0 y0 (0 + q.1) q.2, spriteBit (bs.getD q.1 0#8) q.2)).map Prod.fst).Nodup := by
  rw [List.map_map]
  refine List.Nodup.map_on ?_ (List.nodup_range.product List.nodup_range)
  rintro ⟨r, c⟩ hq ⟨r', c'⟩ hq' e
  have hq := List.pair_mem_product.mp hq
  have hq' := List.pair_mem_product.mp hq'
  simp only [List.mem_range] at hq hq'
  simp only [Function.comp, spriteCell, Prod.mk.injEq, Fin.ext_iff, Fin.val_ofNat] at e
  ext <;> simp only <;> omega

/-- The row and column numbers of the pixels. -/
theorem mem_pixelNumbers (n r c : Nat) : (r, c) ∈ List.range n ×ˢ List.range 8 ↔ r < n ∧ c < 8 :=
  List.pair_mem_product.trans (by simp only [List.mem_range])

/-- Drawing at most 32 rows: a cell is inverted exactly when some 1 bit of the sprite falls on it. -/
theorem drawRows_cell (x0 y0 : Byte) (bs : List Byte) (h : bs.length ≤ 32) (fb : Framebuffer) (row : Fin 32) (col : Fin 64)
    (lit : Prop) [Decidable lit]
    (hl : lit ↔ ∃ r c, r < bs.length ∧ c < 8 ∧ spriteCell .wrap x0 y0 r c = (row, col) ∧
      spriteBit (bs.getD r 0#8) c = true) :
    fbGet (drawRows .wrap x0 y0 0 bs (fb, false)).1 row col = (fbGet fb row col ^^ decide lit) := by
  rw [drawRows_eq, (plot_pixels _ (spriteCells_nodup x0 y0 bs h) _).1]
  congr 1
  rw [decide_eq_decide, hl, List.mem_map]
  simp only [Prod.exists, mem_pixelNumbers, Prod.mk.injEq, Nat.zero_add, and_assoc]

/-- Drawing at most 32 rows: the collision is a 1 bit that falls on a cell that was on. -/
theorem drawRows_collision (x0 y0 : Byte) (bs : List Byte) (h : bs.length ≤ 32) (fb : Framebuffer) :
    (drawRows .wrap x0 y0 0 bs (fb, false)).2 = true ↔
      ∃ row col, (∃ r c, r < bs.length ∧ c < 8 ∧ spriteCell .wrap x0 y0 r c = (row, col) ∧
        spriteBit (bs.getD r 0#8) c = true) ∧ fbGet fb row col = true := by
  rw [drawRows_eq, (plot_pixels _ (spriteCells_nodup x0 y0 bs h) _).2]
  simp only [Bool.false_eq_true, false_or, List.mem_map, Prod.exists, mem_pixelNumbers, Prod.mk.injEq, Nat.zero_add,
    and_assoc]

/-- The sprite's bit by division, as the spec writes it (R95). -/
theorem spriteBit_iff (b : Byte) (c : Nat) : spriteBit b c = true ↔ b.toNat / 2 ^ (7 - c) % 2 = 1 := by
  unfold spriteBit
  rw [BitVec.getLsbD, Nat.testBit_eq_decide_div_mod_eq]
  exact decide_eq_true_iff

end Sys2Proof.Machine
end

