-- ==== Sys2Proof/Laws/Registers.lean ====
section
/-!
SUPPORT. The laws of the register file: a read after one write, after a result and its flag, and after a range of writes.
-/

namespace Sys2Proof.Machine

/-- A read after a write: the value written there, and every other register as before. -/
theorem State.setReg_reg (s : State) (x r : RegNum) (b : Byte) :
    (s.setReg x b).reg r = if r = x then b else s.reg r := by
  show (s.v.set x.toNat b x.isLt)[r.toNat]'r.isLt = _
  rw [Vector.getElem_set]
  by_cases h : r = x
  · subst h; simp
  · rw [if_neg fun e => h (BitVec.eq_of_toNat_eq e.symm), if_neg h]; rfl

/-- A read after the flag's write (R12). -/
theorem State.setFlag_reg (s : State) (r : RegNum) (f : Bool) :
    (s.setFlag f).reg r = if r = vf then flagByte f else s.reg r := State.setReg_reg s vf r (flagByte f)

/-- A read after a result and its flag: the flag's write is the later one (R13). -/
theorem State.setRegFlag_reg (s : State) (x r : RegNum) (b : Byte) (f : Bool) :
    (s.setRegFlag x b f).reg r = if r = vf then flagByte f else if r = x then b else s.reg r := by
  rw [State.setRegFlag, State.setFlag_reg, State.setReg_reg]

/-- The registers of a range, in order. -/
theorem State.regsFrom_eq (s : State) (k n : Nat) :
    s.regsFrom k n = (List.range n).map (fun j => s.reg (BitVec.ofNat 4 (k + j))) := by
  induction n generalizing k with
  | zero => rfl
  | succ n ih =>
    rw [State.regsFrom, ih, List.range_succ_eq_map, List.map_cons, List.map_map]
    refine congrArg₂ _ rfl (List.map_congr_left fun j _ => ?_)
    show s.reg (BitVec.ofNat 4 (k + 1 + j)) = s.reg (BitVec.ofNat 4 (k + (j + 1)))
    congr 2; omega

@[simp] theorem State.regsFrom_length (s : State) (k n : Nat) : (s.regsFrom k n).length = n := by
  simp [State.regsFrom_eq]

/-- A read after a range of writes within the file: the byte of its place in the range, else as before. -/
theorem State.setRegsFrom_reg (s : State) (k : Nat) (bs : List Byte) (r : RegNum) (h : k + bs.length ≤ 16) :
    (s.setRegsFrom k bs).reg r = if k ≤ r.toNat then bs[r.toNat - k]?.getD (s.reg r) else s.reg r := by
  induction bs generalizing s k with
  | nil => simp [State.setRegsFrom]
  | cons b bs ih =>
    simp only [List.length_cons] at h
    have hk : (BitVec.ofNat 4 k).toNat = k := by rw [BitVec.toNat_ofNat]; omega
    rw [State.setRegsFrom, ih _ _ (by omega), State.setReg_reg]
    by_cases h1 : k + 1 ≤ r.toNat
    · have h2 : r ≠ BitVec.ofNat 4 k := fun e => by rw [e, hk] at h1; omega
      have h3 : r.toNat - k = r.toNat - (k + 1) + 1 := by omega
      rw [if_pos h1, if_neg h2, if_pos (by omega), h3, List.getElem?_cons_succ]
    · rw [if_neg h1]
      by_cases h2 : k = r.toNat
      · subst h2
        rw [if_pos (by simp)]; simp
      · rw [if_neg fun e => h2 (by rw [e, hk]), if_neg (by omega)]

/-- Two states whose registers all agree have the same register file. -/
theorem State.v_ext {s t : State} (h : ∀ r, s.reg r = t.reg r) : s.v = t.v := by
  refine Vector.ext fun i hi => ?_
  have := h (BitVec.ofNat 4 i)
  have e : (BitVec.ofNat 4 i).toNat = i := by rw [BitVec.toNat_ofNat]; omega
  simpa [State.reg, e] using this

end Sys2Proof.Machine
end

