-- ==== Sys2Proof/Laws/HostOps.lean ====
section
/-!
SUPPORT. What each host operation does to each field (spec/70_reset_and_hazards.md R161), and the invariant-bearing facts:
memory stays in canonical form.
-/

namespace Sys2Proof.Machine

/-! ### `hostSetRegister` -/

@[simp] theorem hostSetRegister_index (i : RegNum) (v : Byte) (s : State) : (hostSetRegister i v s).index = s.index := rfl
@[simp] theorem hostSetRegister_pc (i : RegNum) (v : Byte) (s : State) : (hostSetRegister i v s).pc = s.pc := rfl
@[simp] theorem hostSetRegister_stack (i : RegNum) (v : Byte) (s : State) : (hostSetRegister i v s).stack = s.stack := rfl
@[simp] theorem hostSetRegister_dt (i : RegNum) (v : Byte) (s : State) : (hostSetRegister i v s).dt = s.dt := rfl
@[simp] theorem hostSetRegister_st (i : RegNum) (v : Byte) (s : State) : (hostSetRegister i v s).st = s.st := rfl
@[simp] theorem hostSetRegister_mem (i : RegNum) (v : Byte) (s : State) : (hostSetRegister i v s).mem = s.mem := rfl
@[simp] theorem hostSetRegister_fb (i : RegNum) (v : Byte) (s : State) : (hostSetRegister i v s).fb = s.fb := rfl
@[simp] theorem hostSetRegister_fbChanged (i : RegNum) (v : Byte) (s : State) : (hostSetRegister i v s).fbChanged = s.fbChanged := rfl
@[simp] theorem hostSetRegister_faultCode (i : RegNum) (v : Byte) (s : State) : (hostSetRegister i v s).faultCode = s.faultCode := rfl
@[simp] theorem hostSetRegister_faultInfo (i : RegNum) (v : Byte) (s : State) : (hostSetRegister i v s).faultInfo = s.faultInfo := rfl
@[simp] theorem hostSetRegister_cfg (i : RegNum) (v : Byte) (s : State) : (hostSetRegister i v s).cfg = s.cfg := rfl
@[simp] theorem hostSetRegister_keys (i : RegNum) (v : Byte) (s : State) : (hostSetRegister i v s).keys = s.keys := rfl
@[simp] theorem hostSetRegister_rnd (i : RegNum) (v : Byte) (s : State) : (hostSetRegister i v s).rnd = s.rnd := rfl
@[simp] theorem hostSetRegister_schedule (i : RegNum) (v : Byte) (s : State) : (hostSetRegister i v s).schedule = s.schedule := rfl
@[simp] theorem hostSetRegister_freeCount (i : RegNum) (v : Byte) (s : State) : (hostSetRegister i v s).freeCount = s.freeCount := rfl
@[simp] theorem hostSetRegister_result (i : RegNum) (v : Byte) (s : State) : (hostSetRegister i v s).result = .none := rfl

/-! ### `hostTimerTick` -/

@[simp] theorem hostTimerTick_v (s : State) : (hostTimerTick s).v = s.v := rfl
@[simp] theorem hostTimerTick_index (s : State) : (hostTimerTick s).index = s.index := rfl
@[simp] theorem hostTimerTick_pc (s : State) : (hostTimerTick s).pc = s.pc := rfl
@[simp] theorem hostTimerTick_stack (s : State) : (hostTimerTick s).stack = s.stack := rfl
@[simp] theorem hostTimerTick_dt (s : State) : (hostTimerTick s).dt = tickTimer s.dt := rfl
@[simp] theorem hostTimerTick_st (s : State) : (hostTimerTick s).st = tickTimer s.st := rfl
@[simp] theorem hostTimerTick_mem (s : State) : (hostTimerTick s).mem = s.mem := rfl
@[simp] theorem hostTimerTick_fb (s : State) : (hostTimerTick s).fb = s.fb := rfl
@[simp] theorem hostTimerTick_fbChanged (s : State) : (hostTimerTick s).fbChanged = s.fbChanged := rfl
@[simp] theorem hostTimerTick_faultCode (s : State) : (hostTimerTick s).faultCode = s.faultCode := rfl
@[simp] theorem hostTimerTick_faultInfo (s : State) : (hostTimerTick s).faultInfo = s.faultInfo := rfl
@[simp] theorem hostTimerTick_cfg (s : State) : (hostTimerTick s).cfg = s.cfg := rfl
@[simp] theorem hostTimerTick_keys (s : State) : (hostTimerTick s).keys = s.keys := rfl
@[simp] theorem hostTimerTick_rnd (s : State) : (hostTimerTick s).rnd = s.rnd := rfl
@[simp] theorem hostTimerTick_schedule (s : State) : (hostTimerTick s).schedule = s.schedule := rfl
@[simp] theorem hostTimerTick_freeCount (s : State) : (hostTimerTick s).freeCount = s.freeCount := rfl
@[simp] theorem hostTimerTick_result (s : State) : (hostTimerTick s).result = .none := rfl

/-! ### `hostAckFramebuffer` -/

@[simp] theorem hostAckFramebuffer_v (s : State) : (hostAckFramebuffer s).v = s.v := rfl
@[simp] theorem hostAckFramebuffer_index (s : State) : (hostAckFramebuffer s).index = s.index := rfl
@[simp] theorem hostAckFramebuffer_pc (s : State) : (hostAckFramebuffer s).pc = s.pc := rfl
@[simp] theorem hostAckFramebuffer_stack (s : State) : (hostAckFramebuffer s).stack = s.stack := rfl
@[simp] theorem hostAckFramebuffer_dt (s : State) : (hostAckFramebuffer s).dt = s.dt := rfl
@[simp] theorem hostAckFramebuffer_st (s : State) : (hostAckFramebuffer s).st = s.st := rfl
@[simp] theorem hostAckFramebuffer_mem (s : State) : (hostAckFramebuffer s).mem = s.mem := rfl
@[simp] theorem hostAckFramebuffer_fb (s : State) : (hostAckFramebuffer s).fb = s.fb := rfl
@[simp] theorem hostAckFramebuffer_fbChanged (s : State) : (hostAckFramebuffer s).fbChanged = false := rfl
@[simp] theorem hostAckFramebuffer_faultCode (s : State) : (hostAckFramebuffer s).faultCode = s.faultCode := rfl
@[simp] theorem hostAckFramebuffer_faultInfo (s : State) : (hostAckFramebuffer s).faultInfo = s.faultInfo := rfl
@[simp] theorem hostAckFramebuffer_cfg (s : State) : (hostAckFramebuffer s).cfg = s.cfg := rfl
@[simp] theorem hostAckFramebuffer_keys (s : State) : (hostAckFramebuffer s).keys = s.keys := rfl
@[simp] theorem hostAckFramebuffer_rnd (s : State) : (hostAckFramebuffer s).rnd = s.rnd := rfl
@[simp] theorem hostAckFramebuffer_schedule (s : State) : (hostAckFramebuffer s).schedule = s.schedule := rfl
@[simp] theorem hostAckFramebuffer_freeCount (s : State) : (hostAckFramebuffer s).freeCount = s.freeCount := rfl
@[simp] theorem hostAckFramebuffer_result (s : State) : (hostAckFramebuffer s).result = .none := rfl

/-! ### `hostReset` -/

@[simp] theorem hostReset_v (s : State) : (hostReset s).v = State.reset.v := rfl
@[simp] theorem hostReset_index (s : State) : (hostReset s).index = State.reset.index := rfl
@[simp] theorem hostReset_pc (s : State) : (hostReset s).pc = State.reset.pc := rfl
@[simp] theorem hostReset_stack (s : State) : (hostReset s).stack = State.reset.stack := rfl
@[simp] theorem hostReset_dt (s : State) : (hostReset s).dt = State.reset.dt := rfl
@[simp] theorem hostReset_st (s : State) : (hostReset s).st = State.reset.st := rfl
@[simp] theorem hostReset_mem (s : State) : (hostReset s).mem = State.reset.mem := rfl
@[simp] theorem hostReset_fb (s : State) : (hostReset s).fb = State.reset.fb := rfl
@[simp] theorem hostReset_fbChanged (s : State) : (hostReset s).fbChanged = State.reset.fbChanged := rfl
@[simp] theorem hostReset_faultCode (s : State) : (hostReset s).faultCode = State.reset.faultCode := rfl
@[simp] theorem hostReset_faultInfo (s : State) : (hostReset s).faultInfo = State.reset.faultInfo := rfl
@[simp] theorem hostReset_cfg (s : State) : (hostReset s).cfg = s.cfg := rfl
@[simp] theorem hostReset_keys (s : State) : (hostReset s).keys = s.keys := rfl
@[simp] theorem hostReset_rnd (s : State) : (hostReset s).rnd = s.rnd := rfl
@[simp] theorem hostReset_schedule (s : State) : (hostReset s).schedule = s.schedule := rfl
@[simp] theorem hostReset_freeCount (s : State) : (hostReset s).freeCount = s.freeCount := rfl
@[simp] theorem hostReset_result (s : State) : (hostReset s).result = .none := rfl

/-! ### `hostLoadProgram` -/

@[simp] theorem hostLoadProgram_v (bytes : List Byte) (s : State) : (hostLoadProgram bytes s).v = s.v := by
  unfold hostLoadProgram; split <;> simp
@[simp] theorem hostLoadProgram_index (bytes : List Byte) (s : State) : (hostLoadProgram bytes s).index = s.index := by
  unfold hostLoadProgram; split <;> simp
@[simp] theorem hostLoadProgram_pc (bytes : List Byte) (s : State) : (hostLoadProgram bytes s).pc = s.pc := by
  unfold hostLoadProgram; split <;> simp
@[simp] theorem hostLoadProgram_stack (bytes : List Byte) (s : State) : (hostLoadProgram bytes s).stack = s.stack := by
  unfold hostLoadProgram; split <;> simp
@[simp] theorem hostLoadProgram_dt (bytes : List Byte) (s : State) : (hostLoadProgram bytes s).dt = s.dt := by
  unfold hostLoadProgram; split <;> simp
@[simp] theorem hostLoadProgram_st (bytes : List Byte) (s : State) : (hostLoadProgram bytes s).st = s.st := by
  unfold hostLoadProgram; split <;> simp
@[simp] theorem hostLoadProgram_fb (bytes : List Byte) (s : State) : (hostLoadProgram bytes s).fb = s.fb := by
  unfold hostLoadProgram; split <;> simp
@[simp] theorem hostLoadProgram_fbChanged (bytes : List Byte) (s : State) : (hostLoadProgram bytes s).fbChanged = s.fbChanged := by
  unfold hostLoadProgram; split <;> simp
@[simp] theorem hostLoadProgram_faultCode (bytes : List Byte) (s : State) : (hostLoadProgram bytes s).faultCode = s.faultCode := by
  unfold hostLoadProgram; split <;> simp
@[simp] theorem hostLoadProgram_faultInfo (bytes : List Byte) (s : State) : (hostLoadProgram bytes s).faultInfo = s.faultInfo := by
  unfold hostLoadProgram; split <;> simp
@[simp] theorem hostLoadProgram_cfg (bytes : List Byte) (s : State) : (hostLoadProgram bytes s).cfg = s.cfg := by
  unfold hostLoadProgram; split <;> simp
@[simp] theorem hostLoadProgram_keys (bytes : List Byte) (s : State) : (hostLoadProgram bytes s).keys = s.keys := by
  unfold hostLoadProgram; split <;> simp
@[simp] theorem hostLoadProgram_rnd (bytes : List Byte) (s : State) : (hostLoadProgram bytes s).rnd = s.rnd := by
  unfold hostLoadProgram; split <;> simp
@[simp] theorem hostLoadProgram_schedule (bytes : List Byte) (s : State) : (hostLoadProgram bytes s).schedule = s.schedule := by
  unfold hostLoadProgram; split <;> simp
@[simp] theorem hostLoadProgram_freeCount (bytes : List Byte) (s : State) : (hostLoadProgram bytes s).freeCount = s.freeCount := by
  unfold hostLoadProgram; split <;> simp

/-- A program that does not fit is refused with nothing written (R153). -/
theorem hostLoadProgram_of_gt {bytes : List Byte} (s : State) (h : 3584 < bytes.length) :
    hostLoadProgram bytes s = { s with result := .programTooLarge } := if_pos h

/-- A program that fits is stored from the program base up (R153). -/
theorem hostLoadProgram_of_le {bytes : List Byte} (s : State) (h : bytes.length ≤ 3584) :
    hostLoadProgram bytes s = { s.storeFrom 0x200 bytes with result := .loadOk } := if_neg (Nat.not_lt.mpr h)

/-- A load keeps the canonical form. -/
theorem hostLoadProgram_wf (bytes : List Byte) (s : State) (h : Memory.wf s.cfg.font s.mem) :
    Memory.wf s.cfg.font (hostLoadProgram bytes s).mem := by
  unfold hostLoadProgram
  split
  · exact h
  · exact State.storeFrom_wf s _ bytes h

/-- A tick counts a timer down to 0 and no further (R135). -/
theorem tickTimer_toNat (t : Byte) : (tickTimer t).toNat = t.toNat - 1 := by
  unfold tickTimer
  split
  · rename_i h; subst h; rfl
  · bv_omega

/-- The register `SetRegister` writes (R154). -/
theorem hostSetRegister_reg (i r : RegNum) (v : Byte) (s : State) :
    (hostSetRegister i v s).reg r = if r = i then v else s.reg r := State.setReg_reg s i r v

end Sys2Proof.Machine
end

