-- ==== Sys2Proof/Laws/Operands.lean ====
section
/-!
SUPPORT. What the operand functions answer: the key the key wait selects, the decimal digits, the glyph address.
-/

namespace Sys2Proof.Machine

/-- No key among the `n` from `k` up is pressed exactly when there is no first one. -/
theorem firstKeyFrom_eq_none (keys : KeyVector) (k n : Nat) :
    firstKeyFrom keys k n = none ↔ ∀ j, k ≤ j → j < k + n → keys.getLsbD j = false := by
  induction n generalizing k with
  | zero => simp only [firstKeyFrom, true_iff]; intros; omega
  | succ n ih =>
    unfold firstKeyFrom
    split
    · rename_i h
      simp only [reduceCtorEq, false_iff, not_forall]
      exact ⟨k, Nat.le_refl k, by omega, by simp [h]⟩
    · rename_i h
      rw [ih]
      constructor
      · intro hj j h1 h2
        by_cases e : j = k
        · subst e; simpa using h
        · exact hj j (by omega) (by omega)
      · exact fun hj j h1 h2 => hj j (by omega) (by omega)

/-- The first key is pressed, lies in the range, and no key of the range below it is pressed. -/
theorem firstKeyFrom_eq_some (keys : KeyVector) (k n j : Nat) :
    firstKeyFrom keys k n = some j ↔
      k ≤ j ∧ j < k + n ∧ keys.getLsbD j = true ∧ ∀ i, k ≤ i → i < j → keys.getLsbD i = false := by
  induction n generalizing k with
  | zero => simp only [firstKeyFrom, reduceCtorEq, false_iff]; omega
  | succ n ih =>
    unfold firstKeyFrom
    split
    · rename_i h
      rw [Option.some.injEq]
      constructor
      · intro e; subst e; exact ⟨Nat.le_refl k, by omega, h, fun i h1 h2 => by omega⟩
      · intro ⟨h1, _, _, h4⟩
        by_contra e
        have := h4 k (Nat.le_refl k) (by omega)
        simp [h] at this
    · rename_i h
      rw [ih]
      constructor
      · intro ⟨h1, h2, h3, h4⟩
        refine ⟨by omega, by omega, h3, fun i hi1 hi2 => ?_⟩
        by_cases e : i = k
        · subst e; simpa using h
        · exact h4 i (by omega) hi2
      · intro ⟨h1, h2, h3, h4⟩
        refine ⟨?_, by omega, h3, fun i hi1 hi2 => h4 i (by omega) hi2⟩
        by_contra e
        have : j = k := by omega
        subst this; exact h h3

/-- The key wait selects nothing exactly while no key is pressed (R103). -/
theorem selectKey_eq_none (sel : KeySelect) (keys : KeyVector) : selectKey sel keys = none ↔ keys = 0#16 := by
  cases sel
  rw [selectKey, firstKeyFrom_eq_none]
  constructor
  · intro h
    apply BitVec.eq_of_getLsbD_eq; intro i hi
    simpa using h i (Nat.zero_le i) (by omega)
  · intro h; subst h; simp

/-- The key wait selects the lowest pressed key (R103). -/
theorem selectKey_eq_some (keys : KeyVector) (k : Nat) :
    selectKey .lowest keys = some k ↔ k < 16 ∧ keys.getLsbD k = true ∧ ∀ j, j < k → keys.getLsbD j = false := by
  rw [selectKey, firstKeyFrom_eq_some]
  constructor
  · intro ⟨_, h2, h3, h4⟩; exact ⟨by omega, h3, fun j hj => h4 j (Nat.zero_le j) hj⟩
  · intro ⟨h2, h3, h4⟩; exact ⟨Nat.zero_le k, by omega, h3, fun j _ hj => h4 j hj⟩

/-- A register value names a key exactly when it is at most 15 (R100, R126). -/
@[simp] theorem namesKey_iff (k : Byte) : namesKey k = true ↔ k.toNat ≤ 15 := decide_eq_true_iff

@[simp] theorem bcdDigits_length (b : Byte) : (bcdDigits b).length = 3 := rfl

/-- The glyph address fits in 16 bits, for every byte (R106). -/
theorem glyphAddress_toNat (b : Byte) : (glyphAddress b).toNat = b.toNat * 5 := by
  have := b.isLt
  simp only [glyphAddress, glyphBytes, BitVec.toNat_ofNat]; omega

@[simp] theorem addrOf_toNat (nnn : Addr12) : (addrOf nnn).toNat = nnn.toNat := by
  have := nnn.isLt
  simp only [addrOf, BitVec.toNat_setWidth]; omega

@[simp] theorem wordOf_toNat (b : Byte) : (wordOf b).toNat = b.toNat := by
  have := b.isLt
  simp only [wordOf, BitVec.toNat_setWidth]; omega

end Sys2Proof.Machine
end

