-- ==== Sys2Proof/Laws/PerInstr.lean ====
section
/-!
SUPPORT. One fact per instruction, by its row of the opcode map (spec/30_encoding.md R55): its word matches the row's `match`
under the row's `mask`, whatever the operands are.
-/

namespace Sys2Proof.Laws.MatchMask

/-- The `mask` column of R55. -/
def mask : Instr → Word
  | .cls | .ret => 0xFFFF#16
  | .jp _ | .call _ | .seImm _ _ | .sneImm _ _ | .ldImm _ _ | .addImm _ _ | .ldI _ | .jpV0 _ | .rnd _ _
  | .drw _ _ _ => 0xF000#16
  | .seReg _ _ | .ldReg _ _ | .or _ _ | .and _ _ | .xor _ _ | .addReg _ _ | .sub _ _ | .shr _ _ | .subn _ _
  | .shl _ _ | .sneReg _ _ => 0xF00F#16
  | .skp _ | .sknp _ | .ldVxDt _ | .ldVxK _ | .ldDtVx _ | .ldStVx _ | .addI _ | .ldF _ | .ldB _ | .ldMemVx _
  | .ldVxMem _ => 0xF0FF#16

/-- The `match` column of R55. -/
def pattern : Instr → Word
  | .cls => 0x00E0#16
  | .ret => 0x00EE#16
  | .jp _ => 0x1000#16
  | .call _ => 0x2000#16
  | .seImm _ _ => 0x3000#16
  | .sneImm _ _ => 0x4000#16
  | .seReg _ _ => 0x5000#16
  | .ldImm _ _ => 0x6000#16
  | .addImm _ _ => 0x7000#16
  | .ldReg _ _ => 0x8000#16
  | .or _ _ => 0x8001#16
  | .and _ _ => 0x8002#16
  | .xor _ _ => 0x8003#16
  | .addReg _ _ => 0x8004#16
  | .sub _ _ => 0x8005#16
  | .shr _ _ => 0x8006#16
  | .subn _ _ => 0x8007#16
  | .shl _ _ => 0x800E#16
  | .sneReg _ _ => 0x9000#16
  | .ldI _ => 0xA000#16
  | .jpV0 _ => 0xB000#16
  | .rnd _ _ => 0xC000#16
  | .drw _ _ _ => 0xD000#16
  | .skp _ => 0xE09E#16
  | .sknp _ => 0xE0A1#16
  | .ldVxDt _ => 0xF007#16
  | .ldVxK _ => 0xF00A#16
  | .ldDtVx _ => 0xF015#16
  | .ldStVx _ => 0xF018#16
  | .addI _ => 0xF01E#16
  | .ldF _ => 0xF029#16
  | .ldB _ => 0xF033#16
  | .ldMemVx _ => 0xF055#16
  | .ldVxMem _ => 0xF065#16

/-- The word of the instruction matches its row: `w & mask = match` (R55). -/
def Statement (i : Instr) : Prop := encode i &&& mask i = pattern i

/-- Under 0xF000 a word of format `ADDR` is its top nibble. -/
theorem wordAddr_masked (t : BitVec 4) (nnn : Addr12) : wordAddr t nnn &&& 0xF000#16 = wordAddr t 0#12 := by
  apply BitVec.eq_of_getLsbD_eq
  intro i hi
  simp only [wordAddr, BitVec.getLsbD_and, BitVec.getLsbD_append]
  interval_cases i <;> simp

/-- Under 0xF000 a word of format `REG_IMM` is its top nibble. -/
theorem wordRegByte_masked (t : BitVec 4) (x : RegNum) (nn : Byte) : wordRegByte t x nn &&& 0xF000#16 = wordAddr t 0#12 := by
  apply BitVec.eq_of_getLsbD_eq
  intro i hi
  simp only [wordRegByte, wordAddr, BitVec.getLsbD_and, BitVec.getLsbD_append]
  interval_cases i <;> simp

/-- Under 0xF0FF a word of format `REG_OP` is its top nibble and its low byte. -/
theorem wordRegOp_masked (t : BitVec 4) (x : RegNum) (nn : Byte) : wordRegByte t x nn &&& 0xF0FF#16 = wordRegByte t 0 nn := by
  apply BitVec.eq_of_getLsbD_eq
  intro i hi
  simp only [wordRegByte, BitVec.getLsbD_and, BitVec.getLsbD_append]
  interval_cases i <;> simp

/-- Under 0xF00F a word of format `REG_REG` is its top and its low nibble. -/
theorem wordRegReg_masked (t : BitVec 4) (x y : RegNum) (n : Nibble) :
    wordRegReg t x y n &&& 0xF00F#16 = wordRegReg t 0 0 n := by
  apply BitVec.eq_of_getLsbD_eq
  intro i hi
  simp only [wordRegReg, BitVec.getLsbD_and, BitVec.getLsbD_append]
  interval_cases i <;> simp

/-- Under 0xF000 a word of format `REG_REG_N` is its top nibble. -/
theorem wordRegRegN_masked (t : BitVec 4) (x y : RegNum) (n : Nibble) :
    wordRegReg t x y n &&& 0xF000#16 = wordAddr t 0#12 := by
  apply BitVec.eq_of_getLsbD_eq
  intro i hi
  simp only [wordRegReg, wordAddr, BitVec.getLsbD_and, BitVec.getLsbD_append]
  interval_cases i <;> simp

theorem cls : Statement .cls := rfl
theorem ret : Statement .ret := rfl
theorem jp (nnn : Addr12) : Statement (.jp nnn) := wordAddr_masked 0x1 nnn
theorem call (nnn : Addr12) : Statement (.call nnn) := wordAddr_masked 0x2 nnn
theorem seImm (x : RegNum) (nn : Byte) : Statement (.seImm x nn) := wordRegByte_masked 0x3 x nn
theorem sneImm (x : RegNum) (nn : Byte) : Statement (.sneImm x nn) := wordRegByte_masked 0x4 x nn
theorem seReg (x y : RegNum) : Statement (.seReg x y) := wordRegReg_masked 0x5 x y 0x0
theorem ldImm (x : RegNum) (nn : Byte) : Statement (.ldImm x nn) := wordRegByte_masked 0x6 x nn
theorem addImm (x : RegNum) (nn : Byte) : Statement (.addImm x nn) := wordRegByte_masked 0x7 x nn
theorem ldReg (x y : RegNum) : Statement (.ldReg x y) := wordRegReg_masked 0x8 x y 0x0
theorem or (x y : RegNum) : Statement (.or x y) := wordRegReg_masked 0x8 x y 0x1
theorem and (x y : RegNum) : Statement (.and x y) := wordRegReg_masked 0x8 x y 0x2
theorem xor (x y : RegNum) : Statement (.xor x y) := wordRegReg_masked 0x8 x y 0x3
theorem addReg (x y : RegNum) : Statement (.addReg x y) := wordRegReg_masked 0x8 x y 0x4
theorem sub (x y : RegNum) : Statement (.sub x y) := wordRegReg_masked 0x8 x y 0x5
theorem shr (x y : RegNum) : Statement (.shr x y) := wordRegReg_masked 0x8 x y 0x6
theorem subn (x y : RegNum) : Statement (.subn x y) := wordRegReg_masked 0x8 x y 0x7
theorem shl (x y : RegNum) : Statement (.shl x y) := wordRegReg_masked 0x8 x y 0xE
theorem sneReg (x y : RegNum) : Statement (.sneReg x y) := wordRegReg_masked 0x9 x y 0x0
theorem ldI (nnn : Addr12) : Statement (.ldI nnn) := wordAddr_masked 0xA nnn
theorem jpV0 (nnn : Addr12) : Statement (.jpV0 nnn) := wordAddr_masked 0xB nnn
theorem rnd (x : RegNum) (nn : Byte) : Statement (.rnd x nn) := wordRegByte_masked 0xC x nn
theorem drw (x : RegNum) (y : RegNum) (n : Nibble) : Statement (.drw x y n) := wordRegRegN_masked 0xD x y n
theorem skp (x : RegNum) : Statement (.skp x) := wordRegOp_masked 0xE x 0x9E
theorem sknp (x : RegNum) : Statement (.sknp x) := wordRegOp_masked 0xE x 0xA1
theorem ldVxDt (x : RegNum) : Statement (.ldVxDt x) := wordRegOp_masked 0xF x 0x07
theorem ldVxK (x : RegNum) : Statement (.ldVxK x) := wordRegOp_masked 0xF x 0x0A
theorem ldDtVx (x : RegNum) : Statement (.ldDtVx x) := wordRegOp_masked 0xF x 0x15
theorem ldStVx (x : RegNum) : Statement (.ldStVx x) := wordRegOp_masked 0xF x 0x18
theorem addI (x : RegNum) : Statement (.addI x) := wordRegOp_masked 0xF x 0x1E
theorem ldF (x : RegNum) : Statement (.ldF x) := wordRegOp_masked 0xF x 0x29
theorem ldB (x : RegNum) : Statement (.ldB x) := wordRegOp_masked 0xF x 0x33
theorem ldMemVx (x : RegNum) : Statement (.ldMemVx x) := wordRegOp_masked 0xF x 0x55
theorem ldVxMem (x : RegNum) : Statement (.ldVxMem x) := wordRegOp_masked 0xF x 0x65

end Sys2Proof.Laws.MatchMask
end

