-- ==== Sys2Proof/Laws/Stack.lean ====
section
/-!
SUPPORT. The laws of the call stack (spec/10_state.md R16): pop undoes push, and the entries, numbered from the oldest.
-/

namespace Sys2Proof.Machine

/-- Popping an empty stack gives nothing. -/
theorem State.pop_nil {s : State} (h : s.stack = []) : s.pop = none := by
  unfold State.pop; rw [h]

/-- Popping gives the newest entry. -/
theorem State.pop_cons {s : State} {a : Word} {rest : List Word} (h : s.stack = a :: rest) :
    s.pop = some (a, { s with stack := rest }) := by
  unfold State.pop; rw [h]

/-- Popping right after pushing gives the pushed entry and the stack as it was. -/
theorem State.pop_push (s : State) (a : Word) : (s.push a).pop = some (a, s) := rfl

/-- The newest entry is the one at `sp` - 1. -/
theorem State.stackEntry_newest {s : State} {a : Word} {rest : List Word} (h : s.stack = a :: rest) :
    s.stackEntry (s.sp - 1) = some a := by
  simp [State.stackEntry, State.sp, h]

/-- There is no entry at `sp` and above. -/
theorem State.stackEntry_eq_none (s : State) (k : Nat) (h : s.sp ≤ k) : s.stackEntry k = none := by
  unfold State.stackEntry
  exact List.getElem?_eq_none (by simpa [State.sp] using h)

/-- Every entry is an element of the stack. -/
theorem State.mem_of_stackEntry {s : State} {k : Nat} {a : Word} (h : s.stackEntry k = some a) : a ∈ s.stack := by
  unfold State.stackEntry at h
  exact List.mem_reverse.mp (List.mem_of_getElem? h)

/-- The pushed entry is the one at the old `sp`. -/
theorem State.stackEntry_push_newest (s : State) (a : Word) : (s.push a).stackEntry s.sp = some a := by
  simp [State.stackEntry, State.sp]

/-- The entries below are those of before the push. -/
theorem State.stackEntry_push_older (s : State) (a : Word) (k : Nat) (h : k < s.sp) :
    (s.push a).stackEntry k = s.stackEntry k := by
  have h' : k < s.stack.reverse.length := by simpa [State.sp] using h
  simp only [State.stackEntry, State.push_stack, List.reverse_cons]
  exact List.getElem?_append_left h'

end Sys2Proof.Machine
end

