-- ==== Sys2Proof/Tests/Slice0.lean ====
section
/-!
SUPPORT. Tests: ill-formed terms refused, one written-out word per constructor, the vectors of spec/95_test_vectors.md (by
their ids there), and for every statement with hypotheses a witness that meets them. Each test runs one step.
-/

namespace Sys2Proof.Tests

open Sys2Proof.Machine

/-! ### Helpers -/

/-- What `f` sees in the next state; nothing if there is none. -/
def seen {α : Type} (o : Host.Outcome State Fault Refusal) (f : State → α) : Option α :=
  match o with
  | .next t => some (f t)
  | .fault _ | .refused _ => none

/-- The reset state with the word `w` at `pc`, some registers set, and one `Step` with these inputs to come. -/
def start (w : Nat) (regs : List (RegNum × Byte)) (keys : KeyVector := 0) (rnd : Byte := 0) (pc : Word := 0x200) : State :=
  (regs.foldl (fun (s : State) p => s.setReg p.1 p.2)
    { State.reset with pc := pc, schedule := [.step keys rnd] }).withFetchWord 16 w

/-- One scheduled `Step`. -/
def run (s : State) : Host.Outcome State Fault Refusal := step s

/-- The reset state, which performs this host operation next. -/
def hosted (m : HostMove) : State := { State.reset with schedule := [m] }

/-! ### WellFormed -/

/-- R118: the one check there is, on each term it refuses, and on one it must not refuse. -/
theorem test_wellFormed_refuses_ldI : Instr.wellFormed .fatal (.ldI 0x2F0) = false := by decide
theorem test_wellFormed_refuses_rnd : Instr.wellFormed .fatal (.rnd 0x1 0x0F) = false := by decide
theorem test_wellFormed_refuses_ldStVx : Instr.wellFormed .fatal (.ldStVx 0x4) = false := by decide
theorem test_wellFormed_accepts_ldDtVx : Instr.wellFormed .fatal (.ldDtVx 0x4) = true := by decide

/-! ### Decoding: one word of each row of R55, written out bit by bit -/

theorem test_decode_cls : decode .implemented 0b0000_0000_1110_0000#16 = .ok .cls := by decide
theorem test_decode_ret : decode .implemented 0b0000_0000_1110_1110#16 = .ok .ret := by decide
theorem test_decode_jp : decode .implemented 0b0001_0010_1111_0000#16 = .ok (.jp 0x2F0) := by decide
theorem test_decode_call : decode .implemented 0b0010_0010_1111_0000#16 = .ok (.call 0x2F0) := by decide
theorem test_decode_seImm : decode .implemented 0b0011_1011_0011_0101#16 = .ok (.seImm 0xB 0x35) := by decide
theorem test_decode_sneImm : decode .implemented 0b0100_1011_0011_0101#16 = .ok (.sneImm 0xB 0x35) := by decide
theorem test_decode_seReg : decode .implemented 0b0101_1011_0110_0000#16 = .ok (.seReg 0xB 0x6) := by decide
theorem test_decode_ldImm : decode .implemented 0b0110_1011_0011_0101#16 = .ok (.ldImm 0xB 0x35) := by decide
theorem test_decode_addImm : decode .implemented 0b0111_1011_0011_0101#16 = .ok (.addImm 0xB 0x35) := by decide
theorem test_decode_ldReg : decode .implemented 0b1000_1011_0110_0000#16 = .ok (.ldReg 0xB 0x6) := by decide
theorem test_decode_or : decode .implemented 0b1000_1011_0110_0001#16 = .ok (.or 0xB 0x6) := by decide
theorem test_decode_and : decode .implemented 0b1000_1011_0110_0010#16 = .ok (.and 0xB 0x6) := by decide
theorem test_decode_xor : decode .implemented 0b1000_1011_0110_0011#16 = .ok (.xor 0xB 0x6) := by decide
theorem test_decode_addReg : decode .implemented 0b1000_1011_0110_0100#16 = .ok (.addReg 0xB 0x6) := by decide
theorem test_decode_sub : decode .implemented 0b1000_1011_0110_0101#16 = .ok (.sub 0xB 0x6) := by decide
theorem test_decode_shr : decode .implemented 0b1000_1011_0110_0110#16 = .ok (.shr 0xB 0x6) := by decide
theorem test_decode_subn : decode .implemented 0b1000_1011_0110_0111#16 = .ok (.subn 0xB 0x6) := by decide
theorem test_decode_shl : decode .implemented 0b1000_1011_0110_1110#16 = .ok (.shl 0xB 0x6) := by decide
theorem test_decode_sneReg : decode .implemented 0b1001_1011_0110_0000#16 = .ok (.sneReg 0xB 0x6) := by decide
theorem test_decode_ldI : decode .implemented 0b1010_0010_1111_0000#16 = .ok (.ldI 0x2F0) := by decide
theorem test_decode_jpV0 : decode .implemented 0b1011_0010_1111_0000#16 = .ok (.jpV0 0x2F0) := by decide
theorem test_decode_rnd : decode .implemented 0b1100_1011_0011_0101#16 = .ok (.rnd 0xB 0x35) := by decide
theorem test_decode_drw : decode .implemented 0b1101_1011_0110_0101#16 = .ok (.drw 0xB 0x6 0x5) := by decide
theorem test_decode_skp : decode .implemented 0b1110_1011_1001_1110#16 = .ok (.skp 0xB) := by decide
theorem test_decode_sknp : decode .implemented 0b1110_1011_1010_0001#16 = .ok (.sknp 0xB) := by decide
theorem test_decode_ldVxDt : decode .implemented 0b1111_1011_0000_0111#16 = .ok (.ldVxDt 0xB) := by decide
theorem test_decode_ldVxK : decode .implemented 0b1111_1011_0000_1010#16 = .ok (.ldVxK 0xB) := by decide
theorem test_decode_ldDtVx : decode .implemented 0b1111_1011_0001_0101#16 = .ok (.ldDtVx 0xB) := by decide
theorem test_decode_ldStVx : decode .implemented 0b1111_1011_0001_1000#16 = .ok (.ldStVx 0xB) := by decide
theorem test_decode_addI : decode .implemented 0b1111_1011_0001_1110#16 = .ok (.addI 0xB) := by decide
theorem test_decode_ldF : decode .implemented 0b1111_1011_0010_1001#16 = .ok (.ldF 0xB) := by decide
theorem test_decode_ldB : decode .implemented 0b1111_1011_0011_0011#16 = .ok (.ldB 0xB) := by decide
theorem test_decode_ldMemVx : decode .implemented 0b1111_1011_0101_0101#16 = .ok (.ldMemVx 0xB) := by decide
theorem test_decode_ldVxMem : decode .implemented 0b1111_1011_0110_0101#16 = .ok (.ldVxMem 0xB) := by decide

/-- R33, R51: the byte at the lower address is the high byte; the decoder leaves the bytes that follow. -/
theorem test_decodeBytes_bigEndian :
    decodeBytes .implemented [0x6A, 0x3C, 0xFF] = .ok (.ldImm 0xA 0x3C, [0xFF]) ∧
    encodeBytes (.ldImm 0xA 0x3C) = [0x6A, 0x3C] := by decide

/-- R50: one byte is no instruction. -/
theorem test_decodeBytes_truncated : decodeBytes .implemented [0x6A] = .error .truncated := by decide

/-- R54, R56, R57: words next to an instruction's that are none (DEC-1 to DEC-11). -/
theorem test_decode_rejects :
    let words := [0x0000#16, 0x0123#16, 0x00E1#16, 0x5121#16, 0x912F#16, 0x8128#16, 0x8129#16, 0x812F#16, 0xE19F#16, 0xF199#16,
      0xF100#16]
    words.map (decode .implemented) = words.map fun w => .error (.unrecognized w) := by decide

/-- R118 (DEC-15). -/
theorem test_decode_fatal : decode .fatal 0xA2F0#16 = .error (.unrecognized 0xA2F0#16) := by decide

/-- The host's numbering of a table word: bits 15 to 0 of the one word. -/
theorem test_decodeTableWord : decodeTableWord 16 0x3B35 = some (.seImm 0xB 0x35) ∧ decodeTableWord 16 0x0000 = none := by
  decide

/-- The placed instruction is the first one after reset (its inputs are free values, which this one does not read). -/
theorem test_withFetchWord_runs :
    seen (step (State.reset.withFetchWord 16 0x6A3C)) (fun t => (t.reg 0xA, t.pc)) = some (0x3C, 0x202) := by decide

/-! ### Control flow -/

/-- S-1, CF-1. -/
theorem test_cls :
    seen (run { start 0x00E0 [] with fb := fbSet fbClear 3 4 true }) (fun t => (t.cell 3 4, t.fbChanged, t.result, t.pc)) =
      some (false, true, .completed true false, 0x202) := by decide

/-- CF-3. -/
theorem test_ret :
    seen (run { start 0x00EE [] 0 0 0x400 with stack := [0x300, 0x200] }) (fun t => (t.sp, t.stackEntry 0, t.pc)) =
      some (1, some 0x200, 0x302) := by decide

/-- CF-4. -/
theorem test_ret_underflow :
    seen (run (start 0x00EE [])) (fun t => (t.faultCode.number, t.faultInfo, t.pc)) = some (2, 0, 0x200) := by decide

/-- CF-5. -/
theorem test_jp : seen (run (start 0x1ABC [])) (fun t => t.pc) = some 0xABC := by decide

/-- CF-9. -/
theorem test_call :
    seen (run { start 0x2456 [] with stack := List.replicate 15 0x300 }) (fun t => (t.stackEntry 15, t.sp, t.pc)) =
      some (some 0x200, 16, 0x456) := by decide

/-- CF-10. -/
theorem test_call_overflow :
    seen (run { start 0x2456 [] with stack := List.replicate 16 0x300 }) (fun t => (t.faultCode.number, t.sp, t.pc)) =
      some (4, 16, 0x200) := by decide

/-- S-6: a skip at an even address that is no multiple of 4. -/
theorem test_seImm_taken : seen (run (start 0x3B35 [(0xB, 0x35)] 0 0 46)) (fun t => t.pc) = some 50 := by decide

/-- CF-11. -/
theorem test_seImm_not_taken : seen (run (start 0x3B35 [(0xB, 0x34)])) (fun t => t.pc) = some 0x202 := by decide

/-- CF-13. -/
theorem test_sneImm_not_taken : seen (run (start 0x4B35 [(0xB, 0x35)])) (fun t => t.pc) = some 0x202 := by decide

/-- CF-14. -/
theorem test_sneImm_taken : seen (run (start 0x4B35 [(0xB, 0x34)])) (fun t => t.pc) = some 0x204 := by decide

/-- CF-15. -/
theorem test_seReg_taken : seen (run (start 0x5120 [(1, 7), (2, 7)])) (fun t => t.pc) = some 0x204 := by decide

/-- CF-16. -/
theorem test_seReg_not_taken : seen (run (start 0x5120 [(1, 7), (2, 8)])) (fun t => t.pc) = some 0x202 := by decide

/-- CF-18. -/
theorem test_sneReg_taken : seen (run (start 0x9120 [(1, 7), (2, 8)])) (fun t => t.pc) = some 0x204 := by decide

/-- CF-19. -/
theorem test_sneReg_not_taken : seen (run (start 0x9120 [(1, 7), (2, 7)])) (fun t => t.pc) = some 0x202 := by decide

/-- CF-21: the sum is not masked. -/
theorem test_jpV0 : seen (run (start 0xBFFF [(0, 0xFF)])) (fun t => t.pc) = some 0x10FE := by decide

/-! ### Arithmetic, logic, shifts -/

/-- ALU-1: VF is an ordinary destination. -/
theorem test_ldImm : seen (run (start 0x6FFF [])) (fun t => (t.reg 0xF, t.pc)) = some (255, 0x202) := by decide

/-- ALU-2: no carry flag. -/
theorem test_addImm_wraps : seen (run (start 0x7001 [(0, 255)])) (fun t => (t.reg 0, t.reg 0xF)) = some (0, 0) := by decide

/-- ALU-3. -/
theorem test_addImm_vf : seen (run (start 0x7FFF [(0xF, 1)])) (fun t => t.reg 0xF) = some 0 := by decide

/-- ALU-5. -/
theorem test_ldReg : seen (run (start 0x8120 [(1, 1), (2, 9)])) (fun t => (t.reg 1, t.reg 2)) = some (9, 9) := by decide

/-- ALU-7. -/
theorem test_or :
    seen (run (start 0x8121 [(1, 0x0F), (2, 0xF0), (0xF, 1)])) (fun t => (t.reg 1, t.reg 0xF)) = some (0xFF, 1) := by decide

/-- ALU-8. -/
theorem test_and :
    seen (run (start 0x8122 [(1, 0x3C), (2, 0x0F), (0xF, 1)])) (fun t => (t.reg 1, t.reg 0xF)) = some (0x0C, 1) := by decide

/-- ALU-9. -/
theorem test_xor :
    seen (run (start 0x8123 [(1, 0xFF), (2, 0x0F), (0xF, 1)])) (fun t => (t.reg 1, t.reg 0xF)) = some (0xF0, 1) := by decide

/-- S-4. -/
theorem test_addReg_carry :
    seen (run (start 0x85C4 [(5, 160), (0xC, 160)])) (fun t => (t.reg 5, t.reg 0xF)) = some (64, 1) := by decide

/-- ALU-14: the flag overwrites the sum. -/
theorem test_addReg_into_vf : seen (run (start 0x8F14 [(0xF, 200), (1, 100)])) (fun t => t.reg 0xF) = some 1 := by decide

/-- ALU-18. -/
theorem test_sub_borrow :
    seen (run (start 0x8125 [(1, 5), (2, 10)])) (fun t => (t.reg 1, t.reg 0xF)) = some (251, 0) := by decide

/-- ALU-23: equal operands, and the old VF is the operand. -/
theorem test_sub_from_vf :
    seen (run (start 0x81F5 [(1, 5), (0xF, 5)])) (fun t => (t.reg 1, t.reg 0xF)) = some (0, 1) := by decide

/-- ALU-25. -/
theorem test_subn_borrow :
    seen (run (start 0x8127 [(1, 10), (2, 5)])) (fun t => (t.reg 1, t.reg 0xF)) = some (251, 0) := by decide

/-- ALU-27. -/
theorem test_subn_into_vf : seen (run (start 0x8F17 [(0xF, 3), (1, 5)])) (fun t => t.reg 0xF) = some 1 := by decide

/-- ALU-29: `V[2]` is not read. -/
theorem test_shr_ignores_y :
    seen (run (start 0x8126 [(1, 4), (2, 0xFF)])) (fun t => (t.reg 1, t.reg 0xF)) = some (2, 0) := by decide

/-- ALU-31. -/
theorem test_shr_all_ones : seen (run (start 0x8106 [(1, 255)])) (fun t => (t.reg 1, t.reg 0xF)) = some (127, 1) := by decide

/-- ALU-35: `V[2]` is not read. -/
theorem test_shl_ignores_y :
    seen (run (start 0x812E [(1, 0x40), (2, 0xFF)])) (fun t => (t.reg 1, t.reg 0xF)) = some (0x80, 0) := by decide

/-- ALU-34. -/
theorem test_shl_high_bit : seen (run (start 0x810E [(1, 0x81)])) (fun t => (t.reg 1, t.reg 0xF)) = some (0x02, 1) := by decide

/-! ### Draw -/

/-- DRW-1: a sprite across the right edge. -/
theorem test_drw_wraps :
    seen (run ({ start 0xD121 [(1, 60), (2, 31)] with index := 0x300 }.storeFrom 0x300 [0xFF]))
      (fun t => ([t.cell 31 60, t.cell 31 63, t.cell 31 0, t.cell 31 3, t.cell 31 4, t.cell 30 60], t.reg 0xF, t.result)) =
      some ([true, true, true, true, false, false], 0, .completed true false) := by decide

/-- DRW-7: a collision, and a cell the sprite has a 0 bit for. -/
theorem test_drw_collides :
    seen (run ({ start 0xD121 [] with index := 0x300, fb := fbSet (fbSet fbClear 0 3 true) 0 5 true }.storeFrom 0x300 [0xF0]))
      (fun t => (t.cell 0 0, t.cell 0 3, t.cell 0 4, t.cell 0 5, t.reg 0xF)) =
      some (true, false, false, true, 1) := by decide

/-! ### Keys, timers, index register, memory transfer -/

/-- KEY-1. -/
theorem test_skp_pressed : seen (run (start 0xE19E [(1, 5)] 0x0020)) (fun t => t.pc) = some 0x204 := by decide

/-- KEY-6. -/
theorem test_skp_no_such_key :
    seen (run (start 0xE19E [(1, 16)] 0xFFFF)) (fun t => (t.faultCode.number, t.faultInfo, t.pc)) = some (6, 16, 0x200) := by
  decide

/-- KEY-3. -/
theorem test_sknp_pressed : seen (run (start 0xE1A1 [(1, 5)] 0x0020)) (fun t => t.pc) = some 0x202 := by decide

/-- KEY-4. -/
theorem test_sknp_not_pressed : seen (run (start 0xE1A1 [(1, 5)] 0x0000)) (fun t => t.pc) = some 0x204 := by decide

/-- KEY-8. -/
theorem test_ldVxK_waits :
    seen (run (start 0xF30A [])) (fun t => (t.reg 3, t.pc, t.result)) = some (0, 0x200, .completed false true) := by decide

/-- KEY-11. -/
theorem test_ldVxK_lowest :
    seen (run (start 0xF30A [] 0x8104)) (fun t => (t.reg 3, t.pc, t.result)) = some (2, 0x202, .completed false false) := by
  decide

/-- TM-1. -/
theorem test_ldVxDt : seen (run { start 0xF207 [] with dt := 42 }) (fun t => (t.reg 2, t.dt)) = some (42, 42) := by decide

/-- TM-2. -/
theorem test_ldDtVx : seen (run (start 0xF215 [(2, 60)])) (fun t => (t.dt, t.st)) = some (60, 0) := by decide

/-- UD-5. -/
theorem test_ldStVx : seen (run (start 0xF418 [(4, 0x10)])) (fun t => (t.st, t.dt)) = some (0x10, 0) := by decide

/-- IX-1: not masked to 12 bits, VF unchanged. -/
theorem test_addI_above_memory :
    seen (run { start 0xF11E [(1, 1), (0xF, 1)] with index := 0x0FFF }) (fun t => (t.index, t.reg 0xF)) = some (0x1000, 1) := by
  decide

/-- IX-2. -/
theorem test_addI_wraps :
    seen (run { start 0xF11E [(1, 2)] with index := 0xFFFF }) (fun t => (t.index, t.reg 0xF)) = some (0x0001, 0) := by decide

/-- IX-6: the whole byte is multiplied. -/
theorem test_ldF : seen (run (start 0xF129 [(1, 255)])) (fun t => t.index) = some 0x4FB := by decide

/-- UD-1. -/
theorem test_ldI : seen (run (start 0xA2F0 [])) (fun t => (t.index, t.pc)) = some (0x2F0, 0x202) := by decide

/-- UD-2. -/
theorem test_rnd : seen (run (start 0xC10F [] 0 0xB7)) (fun t => t.reg 1) = some 0x07 := by decide

/-- S-5. -/
theorem test_ldB :
    seen (run { start 0xFC33 [(0xC, 129)] with index := 0x350 }) (fun t => (t.bytesFrom 0x350 4, t.index)) =
      some ([1, 2, 9, 0], 0x350) := by decide

/-- BCD-7: nothing is written. -/
theorem test_ldB_out_of_bounds :
    seen (run { start 0xF133 [(1, 234)] with index := 0xFFE })
      (fun t => (t.faultCode.number, t.faultInfo, t.bytesFrom 0xFFE 2)) = some (3, 0x1000, [0, 0]) := by decide

/-- MT-1. -/
theorem test_ldMemVx :
    seen (run { start 0xF255 [(0, 1), (1, 2), (2, 3), (3, 4)] with index := 0x300 }) (fun t => (t.bytesFrom 0x300 4, t.index)) =
      some ([1, 2, 3, 0], 0x300) := by decide

/-- MT-6: the sprite set is not protected. -/
theorem test_ldMemVx_over_font :
    seen (run (start 0xF055 [(0, 0xAA)])) (fun t => t.bytesFrom 0 2) = some [0xAA, 0x90] := by decide

/-- MT-8. -/
theorem test_ldVxMem_font :
    seen (run (start 0xF465 [])) (fun t => t.regsFrom 0 6) = some [0xF0, 0x90, 0x90, 0x90, 0xF0, 0] := by decide

/-- MT-10. -/
theorem test_ldVxMem_out_of_bounds :
    seen (run { start 0xF165 [(0, 7)] with index := 0xFFF }) (fun t => (t.faultCode.number, t.faultInfo, t.reg 0)) =
      some (3, 0x1000, 7) := by decide

/-! ### Fetch, latch, host operations -/

/-- DEC-12. -/
theorem test_fetch_out_of_bounds :
    seen (run { start 0x6000 [] with pc := 0xFFF }) (fun t => (t.faultCode.number, t.faultInfo, t.pc)) =
      some (5, 0xFFF, 0xFFF) := by decide

/-- DEC-14: an odd address. -/
theorem test_fetch_odd :
    seen (run (start 0x6A3C [] 0 0 0x201)) (fun t => (t.reg 0xA, t.pc)) = some (0x3C, 0x203) := by decide

/-- DEC-16. -/
theorem test_latched_step :
    seen (run { start 0x6A3C [] with faultCode := .unrecognizedOpcode }) (fun t => (t.reg 0xA, t.pc, t.result)) =
      some (0, 0x200, .faulted .unrecognizedOpcode) := by decide

/-- TM-3, the first tick. -/
theorem test_timerTick :
    seen (run { hosted .timerTick with dt := 2, st := 1 }) (fun t => (t.dt, t.st)) = some (1, 0) := by decide

/-- TM-3, the third tick. -/
theorem test_timerTick_floor : seen (run (hosted .timerTick)) (fun t => (t.dt, t.st)) = some (0, 0) := by decide

/-- H-1. -/
theorem test_reset_operation :
    seen (run ({ hosted .reset with faultCode := .unrecognizedOpcode, pc := 0x300 }.storeFrom 0x200 [1]))
      (fun t => (t.pc, t.faultCode, t.bytesFrom 0x200 1, t.bytesFrom 0x4F 2)) = some (0x200, .none, [0], [0x80, 0]) := by decide

/-- H-2, with two bytes. -/
theorem test_loadProgram :
    seen (run (hosted (.loadProgram [0x12, 0x34]))) (fun t => (t.bytesFrom 0x1FF 4, t.result)) =
      some ([0, 0x12, 0x34, 0], .loadOk) := by decide

/-- H-5. -/
theorem test_setRegister : seen (run (hosted (.setRegister 15 0x7F))) (fun t => t.reg 0xF) = some 0x7F := by decide

/-- H-6. -/
theorem test_ackFramebuffer :
    seen (run { hosted .ackFramebuffer with fbChanged := true, fb := fbSet fbClear 3 4 true })
      (fun t => (t.fbChanged, t.cell 3 4)) = some (false, true) := by decide

/-! ### Witnesses: for each statement with hypotheses, states and operands that meet them -/

theorem witness_DecodeInvertsEncode :
    Instr.wellFormed .implemented (.rnd 0xF 0xFF) = true ∧ Instr.wellFormed .fatal (.drw 0xF 0xF 0xF) = true := by decide

theorem witness_EncodeInvertsDecode :
    decode .implemented 0xCFFF#16 = .ok (.rnd 0xF 0xFF) ∧ decode .fatal 0xDFFF#16 = .ok (.drw 0xF 0xF 0xF) := by decide

/-- One word for each of the 34 rows, in the order of the statement. -/
theorem witness_OpcodeMapByMatchAndMask :
    0x00E0#16 &&& 0xFFFF#16 = 0x00E0#16 ∧ 0x00EE#16 &&& 0xFFFF#16 = 0x00EE#16 ∧
    0x1FFF#16 &&& 0xF000#16 = 0x1000#16 ∧ 0x2FFF#16 &&& 0xF000#16 = 0x2000#16 ∧
    0x3FFF#16 &&& 0xF000#16 = 0x3000#16 ∧ 0x4FFF#16 &&& 0xF000#16 = 0x4000#16 ∧
    0x5FF0#16 &&& 0xF00F#16 = 0x5000#16 ∧ 0x6FFF#16 &&& 0xF000#16 = 0x6000#16 ∧
    0x7FFF#16 &&& 0xF000#16 = 0x7000#16 ∧ 0x8FF0#16 &&& 0xF00F#16 = 0x8000#16 ∧
    0x8FF1#16 &&& 0xF00F#16 = 0x8001#16 ∧ 0x8FF2#16 &&& 0xF00F#16 = 0x8002#16 ∧
    0x8FF3#16 &&& 0xF00F#16 = 0x8003#16 ∧ 0x8FF4#16 &&& 0xF00F#16 = 0x8004#16 ∧
    0x8FF5#16 &&& 0xF00F#16 = 0x8005#16 ∧ 0x8FF7#16 &&& 0xF00F#16 = 0x8007#16 ∧
    0x8FF6#16 &&& 0xF00F#16 = 0x8006#16 ∧ 0x8FFE#16 &&& 0xF00F#16 = 0x800E#16 ∧
    0x9FF0#16 &&& 0xF00F#16 = 0x9000#16 ∧ 0xAFFF#16 &&& 0xF000#16 = 0xA000#16 ∧
    0xBFFF#16 &&& 0xF000#16 = 0xB000#16 ∧ 0xCFFF#16 &&& 0xF000#16 = 0xC000#16 ∧
    0xDFFF#16 &&& 0xF000#16 = 0xD000#16 ∧ 0xEF9E#16 &&& 0xF0FF#16 = 0xE09E#16 ∧
    0xEFA1#16 &&& 0xF0FF#16 = 0xE0A1#16 ∧ 0xFF07#16 &&& 0xF0FF#16 = 0xF007#16 ∧
    0xFF0A#16 &&& 0xF0FF#16 = 0xF00A#16 ∧ 0xFF15#16 &&& 0xF0FF#16 = 0xF015#16 ∧
    0xFF18#16 &&& 0xF0FF#16 = 0xF018#16 ∧ 0xFF1E#16 &&& 0xF0FF#16 = 0xF01E#16 ∧
    0xFF29#16 &&& 0xF0FF#16 = 0xF029#16 ∧ 0xFF33#16 &&& 0xF0FF#16 = 0xF033#16 ∧
    0xFF55#16 &&& 0xF0FF#16 = 0xF055#16 ∧ 0xFF65#16 &&& 0xF0FF#16 = 0xF065#16 := by decide

/-- Each line of R56 at words next to an instruction's, and words that are not listed. -/
theorem witness_UnrecognizedWordsAreTheListed :
    (∀ w ∈ [0x0000#16, 0x00DF#16, 0x00ED#16, 0x0FFF#16, 0x5001#16, 0x5FFF#16, 0x8008#16, 0x8FFD#16, 0x8FFF#16, 0x9001#16,
      0xE09D#16, 0xEFFF#16, 0xF000#16, 0xF066#16, 0xFFFF#16], listedUnrecognized .implemented w) ∧
    (∀ w ∈ [0xA000#16, 0xCFFF#16, 0xFF18#16], listedUnrecognized .fatal w ∧ ¬ listedUnrecognized .implemented w) ∧
    (∀ w ∈ [0x00E0#16, 0x00EE#16, 0x1000#16, 0x8FFE#16, 0xFF65#16], ¬ listedUnrecognized .fatal w) := by
  simp [listedUnrecognized]

/-- The last fetchable address, under `fatal`, for each of the three instructions. -/
theorem witness_UndocumentedWordsFollowParameter :
    ∀ p ∈ [(0xAFFF#16, Instr.ldI 0xFFF), (0xC000#16, Instr.rnd 0 0), (0xFF18#16, Instr.ldStVx 0xF)],
      let s : State := { start p.1.toNat [] 0 0 0xFFE with cfg := { Config.standard with undocOps := .fatal } }
      encode p.2 = p.1 ∧ p.2.undocumented = true ∧ s.cfg.undocOps = .fatal ∧ s.faultCode = .none ∧
      s.schedule = [.step 0 0] ∧ s.pc.toNat ≤ 0xFFE ∧
      wordOfBytes (s.byteAt s.pc.toNat) (s.byteAt (s.pc.toNat + 1)) = p.1 := by decide

theorem witness_FetchIsBigEndian :
    (start 0x6A3C [] 0 0 0xFFE).readByte 0xFFE = some 0x6A ∧ (start 0x6A3C [] 0 0 0xFFE).readByte 0xFFF = some 0x3C ∧
    (start 0x6A3C [] 0 0 0xFFE).pc.toNat = 0xFFE ∧
    ({ State.reset with pc := 0xFFF } : State).pc.toNat > 0xFFE ∧ State.reset.faultCode = .none := by decide

theorem witness_StepRunsDecodedInstruction :
    let s := start 0x6A3C [] 0x8000 0xFF
    s.faultCode = .none ∧ fetchWord s = some 0x6A3C ∧ decode s.cfg.undocOps 0x6A3C = .ok (.ldImm 0xA 0x3C) ∧
    s.schedule = [.step 0x8000 0xFF] ∧ (State.reset.withFetchWord 16 0x6A3C).schedule = [] ∧
    fetchWord (State.reset.withFetchWord 16 0x6A3C) = some 0x6A3C := by decide

/-- Every fault of R120 at the boundary of its condition, and a `Step` without one, all with the latch clear and `sp` at most
`STACK_DEPTH`. -/
theorem witness_FaultTableAndPriority :
    (start 0x00E0 []).schedule = [.step 0 0] ∧ (start 0x00E0 []).faultCode = .none ∧
    ({ start 0x2200 [] with stack := List.replicate 16 0x200 } : State).sp = Config.standard.stackDepth ∧
    stepFault (start 0x00E0 []) = none ∧
    stepFault { start 0x00E0 [] with pc := 0xFFF } = some (.fetchOutOfBounds, 0xFFF) ∧
    stepFault (start 0x5121 []) = some (.unrecognizedOpcode, 0x5121) ∧
    stepFault (start 0x00EE []) = some (.stackUnderflow, 0) ∧
    stepFault { start 0x2200 [] with stack := List.replicate 16 0x200 } = some (.stackOverflow, 0) ∧
    stepFault { start 0xD122 [] with index := 0xFFF } = some (.memoryOutOfBounds, 0x1000) ∧
    stepFault { start 0xF133 [] with index := 0xFFE } = some (.memoryOutOfBounds, 0x1000) ∧
    stepFault { start 0xF055 [] with index := 0x1000 } = some (.memoryOutOfBounds, 0x1000) ∧
    stepFault { start 0xF065 [] with index := 0xFFFF } = some (.memoryOutOfBounds, 0xFFFF) ∧
    stepFault (start 0xE19E [(1, 16)]) = some (.keyIndexOutOfRange, 16) ∧
    stepFault (start 0xE1A1 [(1, 15)]) = none := by decide

/-- A latched state before each move, and a move that is a host operation other than `Reset`. -/
theorem witness_LatchedStepChangesNothing :
    (∀ m : HostMove, ({ hosted m with faultCode := .stackUnderflow } : State).faultCode ≠ .none ∧
      ({ hosted m with faultCode := .stackUnderflow } : State).schedule = [m]) ∧
    (∀ keys rnd, HostMove.timerTick ≠ .step keys rnd) ∧ HostMove.timerTick ≠ .reset :=
  ⟨fun _ => ⟨by simp, rfl⟩, by simp, by simp⟩

theorem witness_LatchedStepWithFreeInputsChangesNothing :
    ({ State.reset with faultCode := .keyIndexOutOfRange } : State).faultCode ≠ .none ∧
    ({ State.reset with faultCode := .keyIndexOutOfRange } : State).schedule = [] := ⟨by simp, rfl⟩

/-- A state at the bounds of the invariant, and its step. -/
theorem witness_StepKeepsInvariant :
    let s : State := { State.reset with pc := 0x10FE, stack := List.replicate 16 0xFFE, mem := [(0xFFF, 1)] }
    s.Inv ∧ ∃ t, step s = .next t := by
  refine ⟨⟨by decide, by decide, ?_, by decide, fun _ => rfl⟩, ?_⟩
  · intro a ha
    rw [List.eq_of_mem_replicate ha]; decide
  · exact ⟨_, rfl⟩

/-- An instruction that writes the flag, and one that leaves VF alone. -/
theorem witness_SixInstructionsWriteFlag :
    writesFlag (.shl 0 0) = true ∧ seen (exec (.shl 0 0) State.reset) (fun t => t.result) = some (.completed false false) ∧
    writesFlag (.ldVxMem 0xE) = false ∧ vf ∉ destinations (.ldVxMem 0xE) ∧
    (seen (exec (.ldVxMem 0xE) State.reset) (fun t => t.pc)).isSome = true := by decide

theorem witness_OnlyDestinationsChange :
    (0xF#4 : RegNum) ∉ destinations (.ldVxMem 0xE) ∧ writesFlag (.ldVxMem 0xE) = false ∧
    (0x1#4 : RegNum) ∉ destinations (.addReg 0 1) ∧ writesFlag (.addReg 0 1) = true ∧ (0x1#4 : RegNum) ≠ vf ∧
    (seen (exec (.addReg 0 1) State.reset) (fun t => t.pc)).isSome = true ∧
    (seen (exec (.ldVxMem 0xE) State.reset) (fun t => t.pc)).isSome = true := by decide

theorem witness_OnlyTwoInstructionsWriteMemory :
    (∃ t, exec (.ldF 0) State.reset = .next t) ∧ (∀ x, Instr.ldF 0 ≠ .ldB x) ∧ (∀ x, Instr.ldF 0 ≠ .ldMemVx x) :=
  ⟨⟨_, rfl⟩, by simp, by simp⟩

/-- A draw and a clear that complete, and an instruction that is neither. -/
theorem witness_OnlyClearAndDrawTouchFramebuffer :
    seen (exec .cls State.reset) (fun t => t.result) = some (.completed true false) ∧
    seen (exec (.drw 0 0 0) State.reset) (fun t => t.result) = some (.completed true false) ∧
    (∃ t, exec (.jp 0) State.reset = .next t) ∧ Instr.jp 0 ≠ .cls ∧ ∀ x y n, Instr.jp 0 ≠ .drw x y n :=
  ⟨by decide, by decide, ⟨_, rfl⟩, by simp, by simp⟩

/-- One instruction that meets all four premises. -/
theorem witness_SpecialRegistersHaveFewWriters :
    (∃ t, exec .cls State.reset = .next t) ∧ (∀ x, Instr.cls ≠ .addI x) ∧ (∀ x, Instr.cls ≠ .ldF x) ∧
    (∀ a, Instr.cls ≠ .ldI a) ∧ Instr.cls ≠ .ret ∧ (∀ a, Instr.cls ≠ .call a) ∧ (∀ x, Instr.cls ≠ .ldDtVx x) ∧
    (∀ x, Instr.cls ≠ .ldStVx x) :=
  ⟨⟨_, rfl⟩, by simp, by simp, by simp, by simp, by simp, by simp, by simp⟩

/-- One entry, a full stack, and an empty one. -/
theorem witness_RetContinuesAfterCall :
    ({ State.reset with stack := [0xFFE] } : State).stackEntry 0 = some 0xFFE ∧
    ({ State.reset with stack := 0x300 :: List.replicate 15 0x200 } : State).stackEntry 15 = some 0x300 ∧
    State.reset.sp = 0 := by decide

/-- One entry below the bound, and at the bound. -/
theorem witness_CallPushesItsOwnAddress :
    ({ State.reset with stack := List.replicate 15 0x200 } : State).sp + 1 = State.reset.cfg.stackDepth ∧
    ({ State.reset with stack := List.replicate 16 0x200 } : State).sp = State.reset.cfg.stackDepth := by decide

theorem witness_ReturnUndoesCall :
    ({ State.reset with stack := List.replicate 15 0x200 } : State).sp < State.reset.cfg.stackDepth := by decide

/-- A destination that is not VF, for the five flag-setting instructions of the ALU. -/
theorem witness_AddRegistersWithCarry : (0xE#4 : RegNum) ≠ 0xF#4 := by decide
theorem witness_SubtractReportsNoBorrow : (0x0#4 : RegNum) ≠ 0xF#4 := by decide
theorem witness_ReverseSubtractReportsNoBorrow : (0xE#4 : RegNum) ≠ 0xF#4 := by decide
theorem witness_ShiftRightReportsLowBit : (0x0#4 : RegNum) ≠ 0xF#4 := by decide
theorem witness_ShiftLeftReportsHighBit : (0xE#4 : RegNum) ≠ 0xF#4 := by decide

/-- No row with `I` out of bounds, the last row inside, the first row outside. -/
theorem witness_DrawXorsSpriteIntoCells_bounds :
    (0x0#4).toNat = 0 ∧ (0xFFF#16).toNat + (0x1#4).toNat - 1 ≤ 4095 ∧ (0xFF1#16).toNat + (0xF#4).toNat - 1 ≤ 4095 ∧
    (0x1#4).toNat > 0 ∧ (0x1000#16).toNat + (0x1#4).toNat - 1 > 4095 ∧ (0xFF2#16).toNat + (0xF#4).toNat - 1 > 4095 := by decide

/-- The byte 0xF0 of the default `FONT` at address 0: its first bit lights cell (0, 0), which may be on or off. -/
theorem spriteLit_font (fb : Framebuffer) : spriteLit { State.reset with fb := fb } 0 0 1 0 0 :=
  ⟨0, 0, 0xF0, by decide, by decide, by decide, by decide, show State.reset.readByte 0 = some 0xF0 by decide, by decide⟩

/-- A lit cell, a cell that is not lit, a collision and a draw without one. -/
theorem witness_DrawXorsSpriteIntoCells :
    spriteLit State.reset 0 0 1 0 0 ∧ ¬ spriteLit State.reset 0 0 0 0 0 ∧
    (∃ row col, spriteLit { State.reset with fb := fbSet fbClear 0 0 true } 0 0 1 row col ∧
      ({ State.reset with fb := fbSet fbClear 0 0 true } : State).cell row col = true) ∧
    (¬ ∃ row col, spriteLit State.reset 0 0 0 row col ∧ State.reset.cell row col = true) := by
  refine ⟨spriteLit_font fbClear, ?_, ⟨0, 0, spriteLit_font _, by decide⟩, ?_⟩
  · rintro ⟨r, c, b, h, _⟩; exact absurd h (Nat.not_lt_zero r)
  · rintro ⟨row, col, ⟨r, c, b, h, _⟩, _⟩; exact absurd h (Nat.not_lt_zero r)

/-- The first draw of a glyph row on a clear framebuffer sets a cell, and every lit cell was off. -/
theorem witness_DrawTwiceRestoresFramebuffer :
    (0x0#4 : RegNum) ≠ 0xF#4 ∧ State.reset.index.toNat + (0x1#4).toNat - 1 ≤ 4095 ∧
    State.reset.cell 0 0 = false ∧ seen (exec (.drw 0 0 1) State.reset) (fun t => t.cell 0 0) = some true ∧
    (∀ row col, spriteLit State.reset 0 0 1 row col → State.reset.cell row col = false) := by
  refine ⟨by decide, by decide, by decide, by decide, fun row col _ => ?_⟩
  show fbGet (Vector.replicate 32 (Vector.replicate 64 false)) row col = false
  simp [fbGet]

/-- The last key number, and the first value that names no key. -/
theorem witness_KeySkipsSampleTheVector :
    (({ State.reset with v := State.reset.v.set 1 15 } : State).reg 1).toNat ≤ 15 ∧
    (({ State.reset with v := State.reset.v.set 1 16 } : State).reg 1).toNat > 15 := by decide

/-- No key, the last key alone, and the first key with all others. -/
theorem witness_KeyWaitStallsOrStoresLowest :
    (∀ k, k < 16 → State.reset.keyDown k = false) ∧
    (({ State.reset with keys := 0x8000 } : State).keyDown 15 = true ∧
      ∀ j, j < 15 → ({ State.reset with keys := 0x8000 } : State).keyDown j = false) ∧
    (({ State.reset with keys := 0xFFFF } : State).keyDown 0 = true ∧
      ∀ j, j < 0 → ({ State.reset with keys := 0xFFFF } : State).keyDown j = false) := by decide

theorem witness_StoreDecimalDigits :
    ({ State.reset with index := 0xFFD } : State).index.toNat + 2 ≤ 4095 ∧
    ({ State.reset with index := 0xFFE } : State).index.toNat + 2 > 4095 := by decide

theorem witness_RegisterDumpStoresRange :
    ({ State.reset with index := 0xFF0 } : State).index.toNat + (0xF#4).toNat ≤ 4095 ∧
    ({ State.reset with index := 0xFF1 } : State).index.toNat + (0xF#4).toNat > 4095 ∧
    (0xF#4 : RegNum).toNat ≤ (0xF#4 : RegNum).toNat := by decide

theorem witness_RegisterLoadReadsRange :
    ({ State.reset with index := 0xFFF } : State).index.toNat + (0x0#4).toNat ≤ 4095 ∧
    ({ State.reset with index := 0x1000 } : State).index.toNat + (0x0#4).toNat > 4095 ∧
    (0x0#4 : RegNum).toNat ≤ (0x0#4 : RegNum).toNat ∧ (0x0#4 : RegNum).toNat < (0x1#4 : RegNum).toNat := by decide

theorem witness_DumpThenLoadRoundTrips :
    ({ State.reset with index := 0xFF0 } : State).index.toNat + (0xF#4).toNat ≤ 4095 := by decide

theorem witness_StoreIsSeenByFetch :
    1 ≤ (0x1#4).toNat ∧ ({ State.reset with index := 0xFFE } : State).index.toNat + (0x1#4).toNat ≤ 4095 := by decide

/-- The first and the last byte of the two ranges of R26. -/
theorem witness_ResetStateValues :
    (0 : Nat) < 80 ∧ (79 : Nat) < 80 ∧ 0x50 ≤ (0x50 : Nat) ∧ (0xFFF : Nat) ≤ 0xFFF ∧
    State.reset.readByte 79 = some 0x80 ∧ State.reset.readByte 0x50 = some 0 := by decide

theorem witness_ResetReinitializesEverything : (hosted .reset).schedule = .reset :: [] := rfl

/-- The longest program that fits, and one byte more. -/
theorem witness_LoadProgramCopiesOrRefuses :
    (∀ bytes, (hosted (.loadProgram bytes)).schedule = .loadProgram bytes :: []) ∧
    (List.replicate 3584 0#8).length ≤ 3584 ∧ (List.replicate 3585 0#8).length > 3584 :=
  ⟨fun _ => rfl, by rw [List.length_replicate], by rw [List.length_replicate]; decide⟩

theorem witness_SetRegisterWritesOneRegister :
    (hosted (.setRegister 0xF 0xFF)).schedule = .setRegister 0xF 0xFF :: [] := rfl

theorem witness_TimerTickCountsDown : (hosted .timerTick).schedule = .timerTick :: [] := rfl

theorem witness_ChangedFlagStaysUntilAcknowledged :
    (hosted .ackFramebuffer).schedule = .ackFramebuffer :: [] ∧
    ({ State.reset with fbChanged := true } : State).fbChanged = true ∧
    (∀ rest, State.reset.schedule ≠ .ackFramebuffer :: rest) ∧ (∀ rest, State.reset.schedule ≠ .reset :: rest) :=
  ⟨rfl, rfl, by simp [State.reset], by simp [State.reset]⟩

/-- A jump to itself at the last fetchable address. -/
theorem witness_JumpToSelfChangesNothing :
    let s := start 0x1FFE [] 0 0 0xFFE
    s.schedule = [.step 0 0] ∧ s.faultCode = .none ∧ s.pc.toNat = (0xFFE#12).toNat ∧
    fetchWord s = some (0x1#4 ++ 0xFFE#12) := by decide

end Sys2Proof.Tests
end

section
/-!
SUPPORT. What an instruction can do, said once: `exec_effect` gives every execute phase one of the shapes of `Effect`, and
each statement about all instructions is a case analysis over those shapes.
-/

namespace Sys2Proof.Machine

/-! ### Bounded accesses and branch targets -/

/-- A bounded read answers nothing or all of its bytes (R36). -/
theorem State.readBytes_cases (s : State) (a n : Nat) :
    s.readBytes a n = none ∨ s.readBytes a n = some (s.bytesFrom a n) := by
  rw [State.readBytes_eq]
  split
  · exact .inr rfl
  · exact .inl rfl

/-- A bounded write answers nothing or the state with all of its bytes stored (R36). -/
theorem State.writeBytes_cases (s : State) (a : Nat) (bs : List Byte) :
    s.writeBytes a bs = none ∨ s.writeBytes a bs = some (s.storeFrom a bs) := by
  rw [State.writeBytes_eq]
  split
  · exact .inr rfl
  · exact .inl rfl

/-- An address field as a word, by its value. -/
theorem addrOf_eq_ofNat (nnn : Addr12) : addrOf nnn = BitVec.ofNat 16 nnn.toNat :=
  BitVec.eq_of_toNat_eq (by have := nnn.isLt; rw [addrOf_toNat, BitVec.toNat_ofNat]; omega)

/-- The target of the jump with offset, by its value: the sum never reaches 65536 (R78). -/
theorem wordOf_add_addrOf (b : Byte) (nnn : Addr12) :
    wordOf b + addrOf nnn = BitVec.ofNat 16 (b.toNat + nnn.toNat) :=
  BitVec.eq_of_toNat_eq (by rw [BitVec.toNat_add, wordOf_toNat, addrOf_toNat, BitVec.toNat_ofNat])

/-- A completed skip, with its condition as a proposition. -/
theorem complete_skipIf {s : State} {c : Bool} {p : Prop} [Decidable p] (h : c = true ↔ p) :
    complete (s.skipIf c) = .next ((s.setPc (if p then s.pc + 4#16 else s.pc + 2#16)).completed false false) := by
  simp only [complete, State.skipIf, h]

/-! ### The shapes of an instruction's answer -/

/-- The instructions that write nothing but `pc`: the jumps and the skips. -/
def branches : Instr → Bool
  | .jp _ | .jpV0 _ | .seImm _ _ | .sneImm _ _ | .seReg _ _ | .sneReg _ _ | .skp _ | .sknp _ => true
  | .cls | .ret | .call _ | .ldImm _ _ | .addImm _ _ | .ldReg _ _ | .or _ _ | .and _ _ | .xor _ _ | .addReg _ _ | .sub _ _
  | .shr _ _ | .subn _ _ | .shl _ _ | .ldI _ | .rnd _ _ | .drw _ _ _ | .ldVxDt _ | .ldVxK _ | .ldDtVx _ | .ldStVx _
  | .addI _ | .ldF _ | .ldB _ | .ldMemVx _ | .ldVxMem _ => false

/-- `Effect s i t`: the execute phase of `i` can leave `s` as `t`. One constructor per kind of answer. -/
inductive Effect (s : State) : Instr → State → Prop
  /-- a fault sets the latch and changes nothing else (R127) -/
  | fault {i : Instr} {code : FaultCode} {info : Nat} (hc : code ≠ .none) : Effect s i (s.raised code info)
  /-- a jump or a skip sets `pc` only (R59) -/
  | branch {i : Instr} (hb : branches i = true) : Effect s i ((s.setPc (newPc i s)).completed false false)
  /-- one destination register (R11) -/
  | setReg {i : Instr} {x : RegNum} {b : Byte} (hd : destinations i = [x]) (hf : writesFlag i = false) :
    Effect s i ((s.setReg x b).advance.completed false false)
  /-- one destination register, then the flag (R12, R13) -/
  | setRegFlag {i : Instr} {x : RegNum} {b : Byte} {f : Bool} (hd : destinations i = [x]) (hf : writesFlag i = true) :
    Effect s i ((s.setRegFlag x b f).advance.completed false false)
  /-- clear display (R70) -/
  | clear : Effect s .cls (({ s with fb := fbClear, fbChanged := true }).advance.completed true false)
  /-- draw (R95) -/
  | draw {x y : RegNum} {n : Nibble} (p : Framebuffer × Bool)
      (hp : p = drawRows s.cfg.drawEdge (s.reg x) (s.reg y) 0 (s.bytesFrom s.base n.toNat) (s.fb, false)) :
    Effect s (.drw x y n) ((({ s with fb := p.1, fbChanged := true }).setFlag p.2).advance.completed true false)
  /-- return (R71) -/
  | ret {a : Word} {rest : List Word} (hs : s.stack = a :: rest) :
    Effect s .ret ((({ s with stack := rest }).setPc (a + 2#16)).completed false false)
  /-- call (R73) -/
  | call {nnn : Addr12} (hd : s.sp < s.cfg.stackDepth) :
    Effect s (.call nnn) (((s.push s.pc).setPc (addrOf nnn)).completed false false)
  /-- the key wait while no key is pressed (R103) -/
  | wait {x : RegNum} : Effect s (.ldVxK x) (s.completed false true)
  /-- set delay timer (R104) -/
  | setDelay {x : RegNum} : Effect s (.ldDtVx x) (({ s with dt := s.reg x }).advance.completed false false)
  /-- set sound timer (R117) -/
  | setSound {x : RegNum} : Effect s (.ldStVx x) (({ s with st := s.reg x }).advance.completed false false)
  /-- add to index (R105) -/
  | addIndex {x : RegNum} :
    Effect s (.addI x) (({ s with index := s.index + wordOf (s.reg x) }).advance.completed false false)
  /-- glyph address (R106) -/
  | glyphIndex {x : RegNum} :
    Effect s (.ldF x) (({ s with index := glyphAddress (s.reg x) }).advance.completed false false)
  /-- load index (R115) -/
  | loadIndex {nnn : Addr12} : Effect s (.ldI nnn) (({ s with index := addrOf nnn }).advance.completed false false)
  /-- decimal digits (R107) -/
  | storeDigits {x : RegNum} :
    Effect s (.ldB x) ((s.storeFrom s.base (bcdDigits (s.reg x))).advance.completed false false)
  /-- register dump (R108) -/
  | storeRegs {x : RegNum} :
    Effect s (.ldMemVx x) ((s.storeFrom s.base (s.regsFrom 0 (rangeCount x))).advance.completed false false)
  /-- register load (R109) -/
  | loadRegs {x : RegNum} :
    Effect s (.ldVxMem x) ((s.setRegsFrom 0 (s.bytesFrom s.base (rangeCount x))).advance.completed false false)

/-- Every instruction, from every state, answers a next state, and it is one of the shapes above. -/
theorem exec_effect (i : Instr) (s : State) : ∃ t, exec i s = .next t ∧ Effect s i t := by
  cases i with
  | cls => exact ⟨_, rfl, .clear⟩
  | ret =>
    cases hs : s.stack with
    | nil => exact ⟨_, by rw [exec, execRet, State.pop_nil hs]; rfl, .fault (code := .stackUnderflow) nofun⟩
    | cons a rest => exact ⟨_, by rw [exec, execRet, State.pop_cons hs]; rfl, .ret hs⟩
  | jp nnn => exact ⟨_, by rw [exec, execJp, addrOf_eq_ofNat]; rfl, .branch rfl⟩
  | call nnn =>
    by_cases hd : s.sp < s.cfg.stackDepth
    · exact ⟨_, if_pos hd, .call hd⟩
    · exact ⟨_, if_neg hd, .fault nofun⟩
  | seImm x nn => exact ⟨_, complete_skipIf beq_iff_eq, .branch rfl⟩
  | sneImm x nn => exact ⟨_, complete_skipIf bne_iff_ne, .branch rfl⟩
  | seReg x y => exact ⟨_, complete_skipIf beq_iff_eq, .branch rfl⟩
  | ldImm x nn => exact ⟨_, rfl, .setReg rfl rfl⟩
  | addImm x nn => exact ⟨_, rfl, .setReg rfl rfl⟩
  | ldReg x y => exact ⟨_, rfl, .setReg rfl rfl⟩
  | or x y => exact ⟨_, rfl, .setReg rfl rfl⟩
  | and x y => exact ⟨_, rfl, .setReg rfl rfl⟩
  | xor x y => exact ⟨_, rfl, .setReg rfl rfl⟩
  | addReg x y => exact ⟨_, rfl, .setRegFlag rfl rfl⟩
  | sub x y => exact ⟨_, rfl, .setRegFlag rfl rfl⟩
  | shr x y => exact ⟨_, rfl, .setRegFlag rfl rfl⟩
  | subn x y => exact ⟨_, rfl, .setRegFlag rfl rfl⟩
  | shl x y => exact ⟨_, rfl, .setRegFlag rfl rfl⟩
  | sneReg x y => exact ⟨_, complete_skipIf bne_iff_ne, .branch rfl⟩
  | ldI nnn => exact ⟨_, rfl, .loadIndex⟩
  | jpV0 nnn => exact ⟨_, by rw [exec, execJpV0, wordOf_add_addrOf]; rfl, .branch rfl⟩
  | rnd x nn => exact ⟨_, rfl, .setReg rfl rfl⟩
  | drw x y n =>
    rcases s.readBytes_cases s.base n.toNat with hr | hr
    · exact ⟨_, by rw [exec, execDrw, hr]; rfl, .fault (code := .memoryOutOfBounds) nofun⟩
    · exact ⟨_, by rw [exec, execDrw, hr]; rfl, .draw _ rfl⟩
  | skp x =>
    by_cases hk : namesKey (s.reg x)
    · exact ⟨_, (if_pos hk).trans (complete_skipIf Iff.rfl), .branch rfl⟩
    · exact ⟨_, if_neg hk, .fault nofun⟩
  | sknp x =>
    by_cases hk : namesKey (s.reg x)
    · exact ⟨_, (if_pos hk).trans (complete_skipIf (Bool.not_eq_true' _).to_iff), .branch rfl⟩
    · exact ⟨_, if_neg hk, .fault nofun⟩
  | ldVxDt x => exact ⟨_, rfl, .setReg rfl rfl⟩
  | ldVxK x =>
    cases hk : selectKey s.cfg.keySelect s.keys with
    | none => exact ⟨_, by rw [exec, execLdVxK, hk], .wait⟩
    | some k => exact ⟨_, by rw [exec, execLdVxK, hk], .setReg rfl rfl⟩
  | ldDtVx x => exact ⟨_, rfl, .setDelay⟩
  | ldStVx x => exact ⟨_, rfl, .setSound⟩
  | addI x => exact ⟨_, rfl, .addIndex⟩
  | ldF x => exact ⟨_, rfl, .glyphIndex⟩
  | ldB x =>
    rcases s.writeBytes_cases s.base (bcdDigits (s.reg x)) with hw | hw
    · exact ⟨_, by rw [exec, execLdB, hw]; rfl, .fault (code := .memoryOutOfBounds) nofun⟩
    · exact ⟨_, by rw [exec, execLdB, hw]; rfl, .storeDigits⟩
  | ldMemVx x =>
    rcases s.writeBytes_cases s.base (s.regsFrom 0 (rangeCount x)) with hw | hw
    · exact ⟨_, by rw [exec, execLdMemVx, hw]; rfl, .fault (code := .memoryOutOfBounds) nofun⟩
    · exact ⟨_, by rw [exec, execLdMemVx, hw]; rfl, .storeRegs⟩
  | ldVxMem x =>
    rcases s.readBytes_cases s.base (rangeCount x) with hr | hr
    · exact ⟨_, by rw [exec, execLdVxMem, hr]; rfl, .fault (code := .memoryOutOfBounds) nofun⟩
    · exact ⟨_, by rw [exec, execLdVxMem, hr]; rfl, .loadRegs⟩

/-- The inversion of `exec`: the next state it answers has one of the shapes. -/
theorem effect_of_exec {i : Instr} {s t : State} (h : exec i s = .next t) : Effect s i t := by
  obtain ⟨u, hu, he⟩ := exec_effect i s
  cases h.symm.trans hu
  exact he

/-- A `Step` of the core answers a next state, whatever the state is. -/
theorem coreStep_answers (s : State) : ∃ t, coreStep s = .next t := by
  by_cases hf : s.faultCode = .none
  · cases hw : fetchWord s with
    | none => exact ⟨_, coreStep_of_fetch_none hf hw⟩
    | some w =>
      cases hd : decode s.cfg.undocOps w with
      | error r => exact ⟨_, coreStep_of_reject hf hw hd⟩
      | ok i =>
        obtain ⟨t, ht, -⟩ := exec_effect i s
        exact ⟨t, (coreStep_of_decode hf hw hd).trans ht⟩
  · exact ⟨_, coreStep_latched hf⟩

/-- A jump or a skip is none of the six flag writers. -/
theorem writesFlag_of_branches {i : Instr} (h : branches i = true) : writesFlag i = false := by
  cases i with
  | jp | jpV0 | seImm | sneImm | seReg | sneReg | skp | sknp => rfl
  | _ => cases h

end Sys2Proof.Machine
end

section
/-!
SUPPORT. The frames of an instruction: registers, the framebuffer and its flag, the special registers (spec/10_state.md R11
to R24).
-/

namespace Sys2Proof.Machine

@[simp] theorem State.storeFrom_reg (s : State) (a : Nat) (bs : List Byte) (r : RegNum) :
    (s.storeFrom a bs).reg r = s.reg r := by
  simp only [State.reg, State.storeFrom_v]

/-- A flag is 0 or 1 (R12). -/
theorem flagByte_eq (f : Bool) : flagByte f = 0#8 ∨ flagByte f = 1#8 := by
  cases f
  · exact .inl rfl
  · exact .inr rfl

/-- A register is a destination of the register load exactly when its number is in the range (R109). -/
theorem mem_destinations_ldVxMem (x r : RegNum) : r ∈ destinations (.ldVxMem x) ↔ r.toNat ≤ x.toNat := by
  simp only [destinations, List.mem_map, List.mem_range]
  constructor
  · rintro ⟨k, hk, rfl⟩
    rw [BitVec.toNat_ofNat]
    exact (Nat.mod_le _ _).trans (Nat.le_of_lt_succ hk)
  · exact fun h => ⟨r.toNat, Nat.lt_succ_of_le h, (BitVec.ofNat_toNat 4 r).trans (BitVec.setWidth_eq r)⟩

section
variable {s t : State} {i : Instr}

/-- R11, R12: a register that is neither a destination nor the flag of a flag writer is kept. -/
theorem Effect.keeps_reg (h : Effect s i t) {r : RegNum} (hr : r ∉ destinations i)
    (hv : writesFlag i = true → r ≠ vf) : t.reg r = s.reg r := by
  cases h with
  | setReg hd =>
    rw [hd, List.mem_singleton] at hr
    simp [State.setReg_reg, hr]
  | setRegFlag hd hf =>
    rw [hd, List.mem_singleton] at hr
    simp [State.setRegFlag_reg, hr, hv hf]
  | draw p => exact (State.setFlag_reg _ r p.2).trans (if_neg (hv rfl))
  | @loadRegs x =>
    rw [mem_destinations_ldVxMem] at hr
    have hx := x.isLt
    have hlen : 0 + (s.bytesFrom s.base (rangeCount x)).length ≤ 16 := by
      rw [State.bytesFrom_length, rangeCount]; omega
    have hout : (s.bytesFrom s.base (rangeCount x))[r.toNat - 0]? = none :=
      List.getElem?_eq_none (by rw [State.bytesFrom_length, rangeCount]; omega)
    simp only [State.completed_reg, State.advance_reg, State.setRegsFrom_reg _ _ _ _ hlen, hout, Option.getD_none, ite_self]
  | storeDigits | storeRegs => simp
  | _ => rfl

/-- R12: a flag writer that completes leaves VF 0 or 1. -/
theorem Effect.flag_of_completed (h : Effect s i t) (hw : writesFlag i = true) {d w : Bool}
    (hr : t.result = .completed d w) : t.reg vf = 0#8 ∨ t.reg vf = 1#8 := by
  cases h with
  | fault => cases hr
  | setRegFlag =>
    rw [State.completed_reg, State.advance_reg, State.setRegFlag_reg, if_pos rfl]
    exact flagByte_eq _
  | draw p =>
    rw [State.completed_reg, State.advance_reg, State.setFlag_reg, if_pos rfl]
    exact flagByte_eq _
  | branch hb => rw [writesFlag_of_branches hb] at hw; cases hw
  | setReg hd hf => rw [hf] at hw; cases hw
  | _ => cases hw

/-- R19, R20, R24: clear display and draw, completed, raise `fb_changed` and report `dirty`. -/
theorem Effect.dirty_of_draws (h : Effect s i t) (hi : i = .cls ∨ ∃ x y n, i = .drw x y n)
    (hr : ∀ code, t.result ≠ .faulted code) : t.fbChanged = true ∧ t.result = .completed true false := by
  cases h with
  | fault => exact absurd rfl (hr _)
  | clear | draw => exact ⟨rfl, rfl⟩
  | branch hb => rcases hi with rfl | ⟨x, y, n, rfl⟩ <;> cases hb
  | setReg hd | setRegFlag hd => rcases hi with rfl | ⟨x, y, n, rfl⟩ <;> cases hd
  | _ => rcases hi with hi | ⟨x, y, n, hi⟩ <;> cases hi

/-- R19, R20, R24: every instruction but clear display and draw keeps the framebuffer and its flag and is not `dirty`. -/
theorem Effect.keeps_fb (h : Effect s i t) (hc : i ≠ .cls) (hd : ∀ x y n, i ≠ .drw x y n) :
    t.fb = s.fb ∧ t.fbChanged = s.fbChanged ∧ ∀ w, t.result ≠ .completed true w := by
  cases h with
  | clear => exact absurd rfl hc
  | draw => exact absurd rfl (hd _ _ _)
  | _ => simp

/-- R20: no instruction lowers `fb_changed`. -/
theorem Effect.fbChanged_of_set (h : Effect s i t) (hs : s.fbChanged = true) : t.fbChanged = true := by
  cases h with
  | clear | draw => rfl
  | _ => simp [hs]

/-- No instruction writes the configuration or the inputs (R4, R22, R23). -/
theorem Effect.keeps_inputs (h : Effect s i t) : t.cfg = s.cfg ∧ t.keys = s.keys ∧ t.rnd = s.rnd := by
  cases h <;> simp

/-- R15: only three instructions write `I`. -/
theorem Effect.keeps_index (h : Effect s i t) (h1 : ∀ x, i ≠ .addI x) (h2 : ∀ x, i ≠ .ldF x) (h3 : ∀ a, i ≠ .ldI a) :
    t.index = s.index := by
  cases h with
  | addIndex => exact absurd rfl (h1 _)
  | glyphIndex => exact absurd rfl (h2 _)
  | loadIndex => exact absurd rfl (h3 _)
  | _ => simp

/-- R16: only call and return write the stack. -/
theorem Effect.keeps_stack (h : Effect s i t) (h1 : i ≠ .ret) (h2 : ∀ a, i ≠ .call a) : t.stack = s.stack := by
  cases h with
  | ret => exact absurd rfl h1
  | call => exact absurd rfl (h2 _)
  | _ => simp

/-- R17: only `LD DT, Vx` writes the delay timer. -/
theorem Effect.keeps_dt (h : Effect s i t) (h1 : ∀ x, i ≠ .ldDtVx x) : t.dt = s.dt := by
  cases h with
  | setDelay => exact absurd rfl (h1 _)
  | _ => simp

/-- R17: only `LD ST, Vx` writes the sound timer. -/
theorem Effect.keeps_st (h : Effect s i t) (h1 : ∀ x, i ≠ .ldStVx x) : t.st = s.st := by
  cases h with
  | setSound => exact absurd rfl (h1 _)
  | _ => simp

end

/-- R20: a `Step` of the core keeps a set `fb_changed` set. -/
theorem coreStep_fbChanged_of_set {s t : State} (h : coreStep s = .next t) (hs : s.fbChanged = true) :
    t.fbChanged = true := by
  rcases coreStep_cases h with ⟨-, rfl⟩ | ⟨-, -, rfl⟩ | ⟨w, r, -, -, -, -, rfl⟩ | ⟨w, i, -, -, -, -, he⟩
  · exact hs
  · exact hs
  · exact hs
  · exact (effect_of_exec he).fbChanged_of_set hs

/-- R20: every move but acknowledge and reset answers a next state in which a set `fb_changed` is still set. -/
theorem perform_fbChanged_of_set {m : HostMove} {s : State} (hs : s.fbChanged = true) (ha : m ≠ .ackFramebuffer)
    (hr : m ≠ .reset) : ∃ t, perform m s = .next t ∧ t.fbChanged = true := by
  cases m with
  | step k r =>
    obtain ⟨t, ht⟩ := coreStep_answers (s.withInputs k r)
    exact ⟨t, ht, coreStep_fbChanged_of_set ht hs⟩
  | reset => exact absurd rfl hr
  | loadProgram bytes => exact ⟨_, rfl, by simpa using hs⟩
  | setRegister i v => exact ⟨_, rfl, hs⟩
  | timerTick => exact ⟨_, rfl, hs⟩
  | ackFramebuffer => exact absurd rfl ha

end Sys2Proof.Machine
end

section
/-!
SUPPORT. The invariant of spec/10_state.md R27: the reset state has it, every instruction run from a fetchable `pc` keeps it,
and so does every move of the run.
-/

namespace Sys2Proof.Machine

/-- An unlisted memory reads as the reset contents. -/
theorem State.readByte_of_mem_nil {s : State} (h : s.mem = []) {a : Nat} (ha : a < 4096) :
    s.readByte a = some (memInitial s.cfg.font a) := by
  rw [State.readByte_eq, if_pos ha, State.byteAt, h]; rfl

section
variable {s t : State}

/-- A state that differs from one with the invariant in no field the invariant speaks of but `pc`, and whose `pc` is in
bounds, has the invariant. -/
theorem State.Inv.of_same (hs : s.Inv) (hpc : t.pc.toNat ≤ 0x10FE) (hcfg : t.cfg = s.cfg := by simp)
    (hstack : t.stack = s.stack := by simp) (hmem : t.mem = s.mem := by simp)
    (hcode : t.faultCode = s.faultCode := by simp) (hinfo : t.faultInfo = s.faultInfo := by simp) : t.Inv where
  depth := by rw [State.sp, hstack, hcfg]; exact hs.depth
  pcBound := hpc
  entries := by rw [hstack]; exact hs.entries
  canonical := by rw [hcfg, hmem]; exact hs.canonical
  healthy := by rw [hcode, hinfo]; exact hs.healthy

/-- What the `Step` returns is no part of the invariant. -/
theorem State.Inv.completed (hs : s.Inv) (d w : Bool) : (s.completed d w).Inv := hs.of_same hs.pcBound

/-- Raising a fault keeps the invariant (R128). -/
theorem State.Inv.raised (hs : s.Inv) {code : FaultCode} {info : Nat} (hc : code ≠ .none) : (s.raised code info).Inv where
  depth := hs.depth
  pcBound := hs.pcBound
  entries := hs.entries
  canonical := hs.canonical
  healthy h := absurd h hc

/-- Storing bytes keeps the invariant (R34). -/
theorem State.Inv.storeFrom (hs : s.Inv) (a : Nat) (bs : List Byte) : (s.storeFrom a bs).Inv where
  depth := by simpa [State.sp] using hs.depth
  pcBound := by simpa using hs.pcBound
  entries := by simpa using hs.entries
  canonical := by simpa using State.storeFrom_wf s a bs hs.canonical
  healthy := by simpa using hs.healthy

/-- The address after an instruction that could be fetched is within the bound on `pc`. -/
theorem add_two_le {a : Word} (h : a.toNat ≤ 0xFFE) : (a + 2#16).toNat ≤ 0x10FE := by
  rw [BitVec.toNat_add, BitVec.toNat_ofNat]; omega

/-- So is the address after the instruction it skips. -/
theorem add_four_le {a : Word} (h : a.toNat ≤ 0xFFE) : (a + 4#16).toNat ≤ 0x10FE := by
  rw [BitVec.toNat_add, BitVec.toNat_ofNat]; omega

/-- Going on to the next instruction keeps the invariant when this one could be fetched (R59). -/
theorem State.Inv.advance (hs : s.Inv) (hpc : s.pc.toNat ≤ 0xFFE) : s.advance.Inv := hs.of_same (add_two_le hpc)

/-- Returning keeps the invariant: the entry was at most 0xFFE (R71). -/
theorem State.Inv.ret (hs : s.Inv) {a : Word} {rest : List Word} (h : s.stack = a :: rest) :
    (({ s with stack := rest } : State).setPc (a + 2#16)).Inv where
  depth := by
    have hd := hs.depth
    rw [State.sp, h, List.length_cons] at hd
    exact (Nat.le_succ _).trans hd
  pcBound := add_two_le (hs.entries a (by simp [h]))
  entries b hb := hs.entries b (h ▸ List.mem_cons_of_mem a hb)
  canonical := hs.canonical
  healthy := hs.healthy

/-- Calling keeps the invariant: the stack had room and the pushed `pc` could be fetched (R73). -/
theorem State.Inv.call (hs : s.Inv) (hpc : s.pc.toNat ≤ 0xFFE) (hd : s.sp < s.cfg.stackDepth) (nnn : Addr12) :
    ((s.push s.pc).setPc (addrOf nnn)).Inv where
  depth := hd
  pcBound := by have := nnn.isLt; rw [State.setPc_pc, addrOf_toNat]; omega
  entries := by simpa [hpc] using hs.entries
  canonical := hs.canonical
  healthy := hs.healthy

/-- A jump or a skip from a fetchable `pc` goes to at most 0x10FE: 0x0FF + 0xFFF, the highest target of `JP V0, nnn`, is the
highest (R27). -/
theorem newPc_le_of_branches {i : Instr} (hb : branches i = true) (hpc : s.pc.toNat ≤ 0xFFE) :
    (newPc i s).toNat ≤ 0x10FE := by
  have h2 := add_two_le hpc
  have h4 := add_four_le hpc
  cases i with
  | jp nnn => have := nnn.isLt; simp only [newPc, BitVec.toNat_ofNat]; omega
  | jpV0 nnn =>
    have := nnn.isLt
    have := (s.reg 0#4).isLt
    simp only [newPc, BitVec.toNat_ofNat]; omega
  | seImm | sneImm | seReg | sneReg | skp | sknp => simp only [newPc]; split <;> assumption
  | _ => cases hb

/-- An instruction run from a fetchable `pc` keeps the invariant. -/
theorem Effect.keeps_inv {i : Instr} (h : Effect s i t) (hs : s.Inv) (hpc : s.pc.toNat ≤ 0xFFE) : t.Inv := by
  have hnext := add_two_le hpc
  cases h with
  | fault hc => exact hs.raised hc
  | branch hb => exact hs.of_same (newPc_le_of_branches hb hpc)
  | ret h => exact (hs.ret h).completed _ _
  | call hd => exact (hs.call hpc hd _).completed _ _
  | wait => exact hs.completed _ _
  | storeDigits | storeRegs => exact ((hs.storeFrom _ _).advance (by simpa using hpc)).completed _ _
  | _ => exact hs.of_same (by simpa using hnext)

/-- A `Step` of the core keeps the invariant. -/
theorem coreStep_keeps_inv (h : coreStep s = .next t) (hs : s.Inv) : t.Inv := by
  rcases coreStep_cases h with ⟨-, rfl⟩ | ⟨-, -, rfl⟩ | ⟨w, r, -, -, -, -, rfl⟩ | ⟨w, i, -, hpc, -, -, he⟩
  · exact hs.of_same hs.pcBound
  · exact hs.raised nofun
  · exact hs.raised nofun
  · exact (effect_of_exec he).keeps_inv hs hpc

/-- `Reset` gives the invariant, whatever the state was (R150). -/
theorem hostReset_inv (s : State) : (hostReset s).Inv where
  depth := Nat.zero_le _
  pcBound := by rw [hostReset_pc]; decide
  entries := by simp [State.reset]
  canonical := Memory.wf_nil _
  healthy _ := rfl

/-- `LoadProgram` keeps the invariant (R153). -/
theorem hostLoadProgram_inv {bytes : List Byte} (hs : s.Inv) : (hostLoadProgram bytes s).Inv := by
  by_cases h : bytes.length ≤ 3584
  · rw [hostLoadProgram_of_le s h]
    exact (hs.storeFrom 0x200 bytes).of_same (hs.storeFrom 0x200 bytes).pcBound
  · rw [hostLoadProgram_of_gt s (Nat.lt_of_not_le h)]
    exact hs.of_same hs.pcBound

end

end Sys2Proof.Machine
end

section
/-!
PROOFS. The statements of spec/10_state.md.
-/

namespace Sys2Proof.Machine

/-- Settles O14: a move is a `Step` of a state that differs in its inputs only, or one of the host's operations; each keeps
the invariant. -/
theorem stepKeepsInvariant : Obligations.StepKeepsInvariant := by
  intro s t hs h
  rcases step_cases h with ⟨k, r, rest, n, hc⟩ | ⟨rest, rfl⟩ | ⟨rest, bytes, rfl⟩ | ⟨rest, i, v, rfl⟩ | ⟨rest, rfl⟩ |
    ⟨rest, rfl⟩
  · exact coreStep_keeps_inv hc (hs.of_same hs.pcBound)
  · exact hostReset_inv _
  · exact hostLoadProgram_inv (hs.of_same hs.pcBound)
  · exact hs.of_same hs.pcBound
  · exact hs.of_same hs.pcBound
  · exact hs.of_same hs.pcBound

/-- Settles O16: the flag is written last, so it stands in VF; without one, VF is a register like the others. -/
theorem sixInstructionsWriteFlag : Obligations.SixInstructionsWriteFlag := by
  intro i s t h
  have he := effect_of_exec h
  refine ⟨fun hw ⟨_, _, hr⟩ => he.flag_of_completed hw hr, fun hw hd => he.keeps_reg hd fun hf => ?_⟩
  rw [hw] at hf
  cases hf

/-- Settles O17, by the register frame of the shapes. -/
theorem onlyDestinationsChange : Obligations.OnlyDestinationsChange :=
  fun _ _ _ h _ hr hv => (effect_of_exec h).keeps_reg hr hv

/-- Settles O19, by the framebuffer's frame of the shapes. -/
theorem onlyClearAndDrawTouchFramebuffer : Obligations.OnlyClearAndDrawTouchFramebuffer := by
  intro i s t h
  have he := effect_of_exec h
  exact ⟨fun ⟨hi, hr⟩ => he.dirty_of_draws hi hr, fun ⟨hc, hd⟩ => he.keeps_fb hc hd⟩

/-- Settles O20, one frame of the shapes per special register. -/
theorem specialRegistersHaveFewWriters : Obligations.SpecialRegistersHaveFewWriters := by
  intro i s t h
  have he := effect_of_exec h
  exact ⟨he.keeps_index, he.keeps_stack, he.keeps_dt, he.keeps_st, he.keeps_inputs⟩

/-- Settles O53, by the first move of the schedule; an empty schedule is a `Step`. -/
theorem changedFlagStaysUntilAcknowledged : Obligations.ChangedFlagStaysUntilAcknowledged := by
  refine fun s => ⟨fun rest h => step_cons h, fun hs ha hr => ?_⟩
  cases h : s.schedule with
  | nil =>
    obtain ⟨t, ht⟩ := coreStep_answers _
    exact ⟨t, (step_nil h).trans ht, coreStep_fbChanged_of_set ht hs⟩
  | cons m rest =>
    rw [step_cons h]
    exact perform_fbChanged_of_set hs (fun e => ha rest (h.trans (e ▸ rfl))) (fun e => hr rest (h.trans (e ▸ rfl)))

/-- Settles O15: a `Reset` of the reset state is the reset state. -/
theorem resetHasInvariant : Obligations.ResetHasInvariant := hostReset_inv State.reset

/-- Settles O48: memory lists nothing at reset, so it reads as `FONT` and 0; the cells and registers are replicated values. -/
theorem resetStateValues : Obligations.ResetStateValues := by
  have hreg : ∀ r, State.reset.reg r = 0#8 := fun r => Vector.getElem_replicate _
  have hfont : ∀ a (h : a < 80), State.reset.readByte a = some (State.reset.cfg.font[a]) := fun a h => by
    rw [State.readByte_of_mem_nil rfl (by omega), memInitial, dif_pos h]
  have hzero : ∀ a, 0x50 ≤ a → a ≤ 0xFFF → State.reset.readByte a = some 0#8 := fun a h1 h2 => by
    rw [State.readByte_of_mem_nil rfl (by omega), memInitial, dif_neg (by omega)]
  exact ⟨hreg, rfl, rfl, rfl, rfl, rfl, hfont, hzero, fbGet_fbClear, rfl, rfl, rfl⟩

end Sys2Proof.Machine
end

section
/-!
SUPPORT. Memory under the instructions (spec/20_memory.md): which of them write it, and what a register dump leaves in it.
-/

namespace Sys2Proof.Machine

/-- R32, R37: only the decimal digits and the register dump write memory. -/
theorem Effect.keeps_mem {s t : State} {i : Instr} (h : Effect s i t) (h1 : ∀ x, i ≠ .ldB x)
    (h2 : ∀ x, i ≠ .ldMemVx x) : t.mem = s.mem := by
  cases h with
  | storeDigits => exact absurd rfl (h1 _)
  | storeRegs => exact absurd rfl (h2 _)
  | _ => simp

/-- A dump of `V[0]` .. `V[x]` within memory stores them and goes on (R108). -/
theorem exec_ldMemVx_of_le {s : State} {x : RegNum} (h : s.base + x.toNat ≤ 4095) :
    exec (.ldMemVx x) s =
      .next ((s.storeFrom s.base (s.regsFrom 0 (rangeCount x))).advance.completed false false) := by
  have hw := State.writeBytes_of_le (s := s) (a := s.base) (bs := s.regsFrom 0 (rangeCount x))
    (by rw [State.regsFrom_length, rangeCount]; omega)
  rw [exec, execLdMemVx, hw]
  rfl

/-- After storing `V[0]` .. `V[n - 1]` from `a` up, the byte at `a + k` is `V[k]` (R34, R108). -/
theorem State.storeFrom_regsFrom_byteAt (s : State) {a n k : Nat} (hn : a + n ≤ 4096) (hk : k < n) :
    (s.storeFrom a (s.regsFrom 0 n)).byteAt (a + k) = s.reg (BitVec.ofNat 4 k) := by
  have hlen : a + (s.regsFrom 0 n).length ≤ memSize := by rwa [State.regsFrom_length]
  rw [State.storeFrom_byteAt _ _ _ _ hlen, if_pos (Nat.le_add_right a k), Nat.add_sub_cancel_left]
  simp [State.regsFrom_eq, hk]

/-- A fetch from `a` that stays within memory reads the two bytes there (R51). -/
theorem fetchWord_setPc_of_le (s : State) {a : Word} (h : a.toNat ≤ 0xFFE) :
    fetchWord (s.setPc a) = some (wordOfBytes (s.byteAt a.toNat) (s.byteAt (a.toNat + 1))) := by
  rw [fetchWord_eq]
  exact if_pos h

end Sys2Proof.Machine
end

section
/-!
PROOFS. The statements of spec/20_memory.md.
-/

namespace Sys2Proof.Machine

/-- Settles O18, by the memory frame of the shapes. -/
theorem onlyTwoInstructionsWriteMemory : Obligations.OnlyTwoInstructionsWriteMemory :=
  fun _ _ _ h h1 h2 => (effect_of_exec h).keeps_mem h1 h2

/-- Settles O47: the dump puts `V[0]` and `V[1]` at `I` and `I` + 1, the two bytes the fetch joins. -/
theorem storeIsSeenByFetch : Obligations.StoreIsSeenByFetch := by
  intro x s hx hle
  have hn : s.base + rangeCount x ≤ 4096 := Nat.succ_le_succ hle
  have hfetch : s.index.toNat ≤ 0xFFE := by omega
  have h0 := s.storeFrom_regsFrom_byteAt (k := 0) hn (Nat.succ_pos _)
  have h1 := s.storeFrom_regsFrom_byteAt (k := 1) hn (Nat.lt_succ_of_le hx)
  exact ⟨_, exec_ldMemVx_of_le hle,
    (fetchWord_setPc_of_le _ hfetch).trans (congrArg some (congrArg₂ wordOfBytes h0 h1))⟩

end Sys2Proof.Machine
end

section
/-!
SUPPORT. The decoder (spec/30_encoding.md R54, R56): a word rebuilt from the fields its format leaves open, the unrecognized
words by their fields, and what `decode` answers, said once.
-/

namespace Sys2Proof.Machine

/-! ### A word from its open fields -/

section
variable {w : Word} {t : BitVec 4}

/-- A word of format `ADDR` with this top nibble. -/
theorem wordAddr_of_fieldT (ht : fieldT w = t) : wordAddr t (fieldNNN w) = w := by
  subst ht; exact wordAddr_fields w

/-- A word of format `REG_IMM` with this top nibble. -/
theorem wordRegByte_of_fieldT (ht : fieldT w = t) : wordRegByte t (fieldX w) (fieldNN w) = w := by
  subst ht; exact wordRegByte_fields w

/-- A word of format `REG_OP` with this top nibble and low byte. -/
theorem wordRegByte_of_fieldNN (ht : fieldT w = t) {nn : Byte} (hnn : fieldNN w = nn) :
    wordRegByte t (fieldX w) nn = w := by
  subst hnn; exact wordRegByte_of_fieldT ht

/-- A word of format `REG_REG_N` with this top nibble. -/
theorem wordRegReg_of_fieldT (ht : fieldT w = t) : wordRegReg t (fieldX w) (fieldY w) (fieldN w) = w := by
  subst ht; exact wordRegReg_fields w

/-- A word of format `REG_REG` with this top and low nibble. -/
theorem wordRegReg_of_fieldN (ht : fieldT w = t) {n : Nibble} (hn : fieldN w = n) :
    wordRegReg t (fieldX w) (fieldY w) n = w := by
  subst hn; exact wordRegReg_of_fieldT ht

end

/-! ### A word from the match and mask of its row (R55) -/

section
variable {w m p : Word} {t : BitVec 4}

/-- Mask 0xF000, format `ADDR`. -/
theorem wordAddr_of_match (h : w &&& m = p) (hm : fieldT m = 15#4) (hp : fieldT p = t) :
    wordAddr t (fieldNNN w) = w :=
  wordAddr_of_fieldT ((fieldT_of_match h hm).trans hp)

/-- Mask 0xF000, format `REG_IMM`. -/
theorem wordRegByte_of_match (h : w &&& m = p) (hm : fieldT m = 15#4) (hp : fieldT p = t) :
    wordRegByte t (fieldX w) (fieldNN w) = w :=
  wordRegByte_of_fieldT ((fieldT_of_match h hm).trans hp)

/-- Mask 0xF0FF, format `REG_OP`. -/
theorem wordRegOp_of_match {nn : Byte} (h : w &&& m = p) (hm : fieldT m = 15#4 ∧ fieldNN m = 255#8)
    (hp : fieldT p = t ∧ fieldNN p = nn) : wordRegByte t (fieldX w) nn = w :=
  wordRegByte_of_fieldNN ((fieldT_of_match h hm.1).trans hp.1) ((fieldNN_of_match h hm.2).trans hp.2)

/-- Mask 0xF00F, format `REG_REG`. -/
theorem wordRegReg_of_match {n : Nibble} (h : w &&& m = p) (hm : fieldT m = 15#4 ∧ fieldN m = 15#4)
    (hp : fieldT p = t ∧ fieldN p = n) : wordRegReg t (fieldX w) (fieldY w) n = w :=
  wordRegReg_of_fieldN ((fieldT_of_match h hm.1).trans hp.1) ((fieldN_of_match h hm.2).trans hp.2)

/-- Mask 0xF000, format `REG_REG_N`. -/
theorem wordRegRegN_of_match (h : w &&& m = p) (hm : fieldT m = 15#4) (hp : fieldT p = t) :
    wordRegReg t (fieldX w) (fieldY w) (fieldN w) = w :=
  wordRegReg_of_fieldT ((fieldT_of_match h hm).trans hp)

end

/-! ### The unrecognized words -/

/-- The table of R56 in the fields the decoder reads, in place of numbers. -/
theorem listedUnrecognized_iff (u : UndocOps) (w : Word) : listedUnrecognized u w ↔
    (fieldT w = 0x0#4 ∧ w ≠ 0x00E0#16 ∧ w ≠ 0x00EE#16) ∨
    (fieldT w = 0x5#4 ∧ fieldN w ≠ 0x0#4) ∨
    (fieldT w = 0x8#4 ∧ fieldN w ∈ [0x8#4, 0x9#4, 0xA#4, 0xB#4, 0xC#4, 0xD#4, 0xF#4]) ∨
    (fieldT w = 0x9#4 ∧ fieldN w ≠ 0x0#4) ∨
    (fieldT w = 0xE#4 ∧ fieldNN w ∉ [0x9E#8, 0xA1#8]) ∨
    (fieldT w = 0xF#4 ∧ fieldNN w ∉ [0x07#8, 0x0A#8, 0x15#8, 0x18#8, 0x1E#8, 0x29#8, 0x33#8, 0x55#8, 0x65#8]) ∨
    (u = .fatal ∧ (fieldT w = 0xA#4 ∨ fieldT w = 0xC#4 ∨ (fieldT w = 0xF#4 ∧ fieldNN w = 0x18#8))) := by
  simp [listedUnrecognized, ← fieldT_toNat, ← fieldN_toNat, ← fieldNN_toNat, ← BitVec.toNat_inj]

/-! ### What the decoder answers -/

/-- A right answer of the decoder to `w`: an instruction that exists and that the encoder spells so, for a word that is not
listed as unrecognized, or the rejection of a listed one. -/
def RightAnswer (u : UndocOps) (w : Word) : Except Rejection Instr → Prop
  | .ok i => encode i = w ∧ i.wellFormed u = true ∧ ¬ listedUnrecognized u w
  | .error r => r = .unrecognized w ∧ listedUnrecognized u w

section
variable {u : UndocOps} {w : Word}

/-- An instruction that exists under either value of `UNDOC_OPS` (R118). -/
theorem wellFormed_of_documented {i : Instr} (h : i.undocumented = false) : i.wellFormed u = true := by
  cases u with
  | implemented => rfl
  | fatal => simp [Instr.wellFormed, h]

/-- The right answer for an instruction that `UNDOC_OPS` decides on (R118). -/
theorem rightAnswer_whenImplemented {i : Instr} (hi : encode i = w) (hu : listedUnrecognized u w ↔ u = .fatal) :
    RightAnswer u w (whenImplemented u w i) := by
  cases u with
  | implemented => exact ⟨hi, rfl, fun h => nomatch hu.mp h⟩
  | fatal => exact ⟨rfl, hu.mpr rfl⟩

/-- The right answer in family 8 (R54, R56). -/
theorem rightAnswer_family8 (ht : fieldT w = 0x8#4) : RightAnswer u w (decodeFamily8 w) := by
  have hl : listedUnrecognized u w ↔ fieldN w ∈ [0x8#4, 0x9#4, 0xA#4, 0xB#4, 0xC#4, 0xD#4, 0xF#4] := by
    simp [listedUnrecognized_iff, ht]
  unfold decodeFamily8
  split
  case h_10 h0 h1 h2 h3 h4 h5 h6 h7 hE =>
    refine ⟨rfl, hl.mpr ?_⟩
    revert h0 h1 h2 h3 h4 h5 h6 h7 hE
    generalize fieldN w = n
    revert n
    decide
  all_goals exact ⟨wordRegReg_of_fieldN ht ‹_›, wellFormed_of_documented rfl, by rw [hl, ‹fieldN w = _›]; decide⟩

/-- The right answer in family E (R54, R56). -/
theorem rightAnswer_familyE (ht : fieldT w = 0xE#4) : RightAnswer u w (decodeFamilyE w) := by
  have hl : listedUnrecognized u w ↔ fieldNN w ∉ [0x9E#8, 0xA1#8] := by simp [listedUnrecognized_iff, ht]
  unfold decodeFamilyE
  split
  case h_3 h1 h2 => exact ⟨rfl, hl.mpr (by simp [imp_false.mp h1, imp_false.mp h2])⟩
  all_goals exact ⟨wordRegByte_of_fieldNN ht ‹_›, wellFormed_of_documented rfl, by rw [hl, ‹fieldNN w = _›]; decide⟩

/-- The right answer in family F (R54, R56, R118). -/
theorem rightAnswer_familyF (ht : fieldT w = 0xF#4) : RightAnswer u w (decodeFamilyF u w) := by
  have hl : listedUnrecognized u w ↔
      fieldNN w ∉ [0x07#8, 0x0A#8, 0x15#8, 0x18#8, 0x1E#8, 0x29#8, 0x33#8, 0x55#8, 0x65#8] ∨
      (u = .fatal ∧ fieldNN w = 0x18#8) := by
    simp [listedUnrecognized_iff, ht]
  unfold decodeFamilyF
  split
  case h_4 h => exact rightAnswer_whenImplemented (wordRegByte_of_fieldNN ht h) (by simp [hl, h])
  case h_10 => exact ⟨rfl, hl.mpr (.inl (by simp only [List.mem_cons, List.not_mem_nil, or_false]; tauto))⟩
  all_goals exact ⟨wordRegByte_of_fieldNN ht ‹_›, wellFormed_of_documented rfl, by simp [hl, ‹fieldNN w = _›]⟩

end

/-- The decoder gives every word its right answer, by the top nibble. -/
theorem decode_rightAnswer (u : UndocOps) (w : Word) : RightAnswer u w (decode u w) := by
  have hl := listedUnrecognized_iff u w
  unfold decode
  split
  case h_1 ht =>
    have hl0 : listedUnrecognized u w ↔ w ≠ 0x00E0#16 ∧ w ≠ 0x00EE#16 := by simp [hl, ht]
    split
    · exact ⟨Eq.symm ‹_›, wellFormed_of_documented rfl, fun h => (hl0.mp h).1 ‹_›⟩
    · split
      · exact ⟨Eq.symm ‹_›, wellFormed_of_documented rfl, fun h => (hl0.mp h).2 ‹_›⟩
      · exact ⟨rfl, hl0.mpr ⟨‹_›, ‹_›⟩⟩
  case h_2 ht | h_3 ht | h_12 ht => exact ⟨wordAddr_of_fieldT ht, wellFormed_of_documented rfl, by simp [hl, ht]⟩
  case h_4 ht | h_5 ht | h_7 ht | h_8 ht =>
    exact ⟨wordRegByte_of_fieldT ht, wellFormed_of_documented rfl, by simp [hl, ht]⟩
  case h_6 ht | h_10 ht =>
    have hlN : listedUnrecognized u w ↔ fieldN w ≠ 0x0#4 := by simp [hl, ht]
    split
    · exact ⟨wordRegReg_of_fieldN ht ‹_›, wellFormed_of_documented rfl, fun h => hlN.mp h ‹_›⟩
    · exact ⟨rfl, hlN.mpr ‹_›⟩
  case h_9 ht => exact rightAnswer_family8 ht
  case h_11 ht => exact rightAnswer_whenImplemented (wordAddr_of_fieldT ht) (by simp [hl, ht])
  case h_13 ht => exact rightAnswer_whenImplemented (wordRegByte_of_fieldT ht) (by simp [hl, ht])
  case h_14 ht => exact ⟨wordRegReg_of_fieldT ht, wellFormed_of_documented rfl, by simp [hl, ht]⟩
  case h_15 ht => exact rightAnswer_familyE ht
  case h_16 h0 h1 h2 h3 h4 h5 h6 h7 h8 h9 hA hB hC hD hE =>
    exact rightAnswer_familyF (nibble_eq_F _ h0 h1 h2 h3 h4 h5 h6 h7 h8 h9 hA hB hC hD hE)

/-! ### Decoding what the encoder writes -/

/-- An instruction that is undocumented and exists says which value `UNDOC_OPS` has (R118). -/
theorem eq_implemented_of_undocumented {u : UndocOps} {i : Instr} (h : i.wellFormed u = true)
    (hi : i.undocumented = true) : u = .implemented := by
  cases u with
  | implemented => rfl
  | fatal => simp [Instr.wellFormed, hi] at h

/-- Decoding undoes encoding (R54, R55): each format's word gives its fields back, and they lead to the instruction's
branch. -/
theorem decode_encode {u : UndocOps} {i : Instr} (h : i.wellFormed u = true) : decode u (encode i) = .ok i := by
  cases i with
  | cls | ret => rfl
  | jp | call | jpV0 | seImm | sneImm | ldImm | addImm | seReg | sneReg | drw => simp [encode, decode]
  | ldReg | or | and | xor | addReg | sub | shr | subn | shl => simp [encode, decode, decodeFamily8]
  | skp | sknp => simp [encode, decode, decodeFamilyE]
  | ldVxDt | ldVxK | ldDtVx | addI | ldF | ldB | ldMemVx | ldVxMem => simp [encode, decode, decodeFamilyF]
  | ldI | rnd | ldStVx =>
    obtain rfl := eq_implemented_of_undocumented h rfl
    simp [encode, decode, decodeFamilyF, whenImplemented]

/-- A word the encoder spells is read as that instruction, under `UNDOC_OPS` = `implemented`. -/
theorem decode_of_encode {w : Word} {i : Instr} (h : encode i = w) : decode .implemented w = .ok i := by
  subst h; exact decode_encode rfl

end Sys2Proof.Machine
end

section
/-!
SUPPORT. Every instruction and every move of the run answers a next state, and the `pc` in it (spec/30_encoding.md R59,
spec/70_reset_and_hazards.md R161).
-/

namespace Sys2Proof.Machine

/-- Every move answers a next state (R161). -/
theorem perform_answers (m : HostMove) (s : State) : ∃ t, perform m s = .next t := by
  cases m with
  | step k r => exact coreStep_answers (s.withInputs k r)
  | reset | loadProgram | setRegister | timerTick | ackFramebuffer => exact ⟨_, rfl⟩

/-- The instructions with a destination register go on to the next instruction, but for the key wait (R59). -/
theorem newPc_of_destinations {i : Instr} (s : State) (hd : destinations i ≠ []) (hk : ∀ x, i ≠ .ldVxK x) :
    newPc i s = s.pc + 2#16 := by
  cases i with
  | cls | ret | jp | call | seImm | sneImm | seReg | sneReg | ldI | jpV0 | drw | skp | sknp | ldDtVx | ldStVx | addI | ldF
  | ldB | ldMemVx => exact absurd rfl hd
  | ldVxK x => exact absurd rfl (hk x)
  | _ => rfl

/-- What an instruction returns with the `pc` it leaves: completed at the `pc` of R59, or faulted at its own (R127). -/
def PcFollowsTable (i : Instr) (s t : State) : Prop :=
  (∃ dirty waiting, t.result = .completed dirty waiting ∧ t.pc = newPc i s) ∨
  (∃ code, t.result = .faulted code ∧ t.pc = s.pc)

/-- Every instruction but the key wait follows the table of R59, shape by shape. -/
theorem Effect.pcFollowsTable {i : Instr} {s t : State} (h : Effect s i t) (hk : ∀ x, i ≠ .ldVxK x) :
    PcFollowsTable i s t := by
  cases h with
  | fault => exact .inr ⟨_, rfl, rfl⟩
  | setReg hd | setRegFlag hd =>
    exact .inl ⟨_, _, rfl, (newPc_of_destinations s (by simp [hd]) hk).symm⟩
  | ret hs => exact .inl ⟨_, _, rfl, by simp [newPc, State.stackEntry_newest hs]⟩
  | call => exact .inl ⟨_, _, rfl, addrOf_eq_ofNat _⟩
  | wait => exact absurd rfl (hk _)
  | storeDigits | storeRegs | loadRegs => exact .inl ⟨_, _, rfl, by simp [newPc]⟩
  | _ => exact .inl ⟨_, _, rfl, rfl⟩

/-- The key wait stays while no key is pressed and goes on otherwise (R59, R103). -/
theorem exec_ldVxK_pc (x : RegNum) (s : State) : ∃ t, exec (.ldVxK x) s = .next t ∧ PcFollowsTable (.ldVxK x) s t := by
  refine ⟨_, rfl, .inl ?_⟩
  cases hk : selectKey s.cfg.keySelect s.keys with
  | none => exact ⟨_, _, rfl, (if_pos ((selectKey_eq_none _ _).mp hk)).symm⟩
  | some k =>
    have hne : s.keys ≠ 0#16 := fun e => by simp [(selectKey_eq_none s.cfg.keySelect s.keys).mpr e] at hk
    exact ⟨_, _, rfl, (if_neg hne).symm⟩

end Sys2Proof.Machine
end

section
/-!
PROOFS. The statements of spec/30_encoding.md.
-/

namespace Sys2Proof.Machine

/-- Settles O1: decoding undoes encoding, format by format. -/
theorem decodeInvertsEncode : Obligations.DecodeInvertsEncode :=
  fun _ _ h => decode_encode h

/-- Settles O2: an instruction the decoder answers is right for its word. -/
theorem encodeInvertsDecode : Obligations.EncodeInvertsDecode := by
  intro u w i h
  have ha := decode_rightAnswer u w
  rw [h] at ha
  obtain ⟨hw, hi, -⟩ := ha
  exact ⟨hw, hi⟩

/-- Settles O3: a word that matches a row is the encoding of the row's instruction with the word's fields as operands. -/
theorem opcodeMapByMatchAndMask : Obligations.OpcodeMapByMatchAndMask := by
  intro w x y n nn nnn
  have full {p : Word} (h : w &&& 0xFFFF#16 = p) : p = w := h.symm.trans (BitVec.and_allOnes (w := 16))
  exact ⟨fun h => decode_of_encode (full h), fun h => decode_of_encode (full h),
    fun h => decode_of_encode (wordAddr_of_match h rfl rfl),
    fun h => decode_of_encode (wordAddr_of_match h rfl rfl),
    fun h => decode_of_encode (wordRegByte_of_match h rfl rfl),
    fun h => decode_of_encode (wordRegByte_of_match h rfl rfl),
    fun h => decode_of_encode (wordRegReg_of_match h ⟨rfl, rfl⟩ ⟨rfl, rfl⟩),
    fun h => decode_of_encode (wordRegByte_of_match h rfl rfl),
    fun h => decode_of_encode (wordRegByte_of_match h rfl rfl),
    fun h => decode_of_encode (wordRegReg_of_match h ⟨rfl, rfl⟩ ⟨rfl, rfl⟩),
    fun h => decode_of_encode (wordRegReg_of_match h ⟨rfl, rfl⟩ ⟨rfl, rfl⟩),
    fun h => decode_of_encode (wordRegReg_of_match h ⟨rfl, rfl⟩ ⟨rfl, rfl⟩),
    fun h => decode_of_encode (wordRegReg_of_match h ⟨rfl, rfl⟩ ⟨rfl, rfl⟩),
    fun h => decode_of_encode (wordRegReg_of_match h ⟨rfl, rfl⟩ ⟨rfl, rfl⟩),
    fun h => decode_of_encode (wordRegReg_of_match h ⟨rfl, rfl⟩ ⟨rfl, rfl⟩),
    fun h => decode_of_encode (wordRegReg_of_match h ⟨rfl, rfl⟩ ⟨rfl, rfl⟩),
    fun h => decode_of_encode (wordRegReg_of_match h ⟨rfl, rfl⟩ ⟨rfl, rfl⟩),
    fun h => decode_of_encode (wordRegReg_of_match h ⟨rfl, rfl⟩ ⟨rfl, rfl⟩),
    fun h => decode_of_encode (wordRegReg_of_match h ⟨rfl, rfl⟩ ⟨rfl, rfl⟩),
    fun h => decode_of_encode (wordAddr_of_match h rfl rfl),
    fun h => decode_of_encode (wordAddr_of_match h rfl rfl),
    fun h => decode_of_encode (wordRegByte_of_match h rfl rfl),
    fun h => decode_of_encode (wordRegRegN_of_match h rfl rfl),
    fun h => decode_of_encode (wordRegOp_of_match h ⟨rfl, rfl⟩ ⟨rfl, rfl⟩),
    fun h => decode_of_encode (wordRegOp_of_match h ⟨rfl, rfl⟩ ⟨rfl, rfl⟩),
    fun h => decode_of_encode (wordRegOp_of_match h ⟨rfl, rfl⟩ ⟨rfl, rfl⟩),
    fun h => decode_of_encode (wordRegOp_of_match h ⟨rfl, rfl⟩ ⟨rfl, rfl⟩),
    fun h => decode_of_encode (wordRegOp_of_match h ⟨rfl, rfl⟩ ⟨rfl, rfl⟩),
    fun h => decode_of_encode (wordRegOp_of_match h ⟨rfl, rfl⟩ ⟨rfl, rfl⟩),
    fun h => decode_of_encode (wordRegOp_of_match h ⟨rfl, rfl⟩ ⟨rfl, rfl⟩),
    fun h => decode_of_encode (wordRegOp_of_match h ⟨rfl, rfl⟩ ⟨rfl, rfl⟩),
    fun h => decode_of_encode (wordRegOp_of_match h ⟨rfl, rfl⟩ ⟨rfl, rfl⟩),
    fun h => decode_of_encode (wordRegOp_of_match h ⟨rfl, rfl⟩ ⟨rfl, rfl⟩),
    fun h => decode_of_encode (wordRegOp_of_match h ⟨rfl, rfl⟩ ⟨rfl, rfl⟩)⟩

/-- Settles O4: the decoder rejects a listed word as such and answers an instruction for every other one. -/
theorem unrecognizedWordsAreTheListed : Obligations.UnrecognizedWordsAreTheListed := by
  intro u w
  have ha := decode_rightAnswer u w
  cases hd : decode u w with
  | ok i =>
    rw [hd] at ha
    obtain ⟨-, -, hnot⟩ := ha
    exact ⟨fun hl => absurd hl hnot, fun _ => ⟨i, rfl⟩⟩
  | error r =>
    rw [hd] at ha
    obtain ⟨rfl, hlisted⟩ := ha
    exact ⟨fun _ => rfl, fun hnot => absurd hlisted hnot⟩

/-- Settles O5: each word is the encoding of its instruction. -/
theorem writtenWordsDecode : Obligations.WrittenWordsDecode :=
  ⟨decode_of_encode rfl, decode_of_encode rfl, decode_of_encode rfl, decode_of_encode rfl, decode_of_encode rfl,
    decode_of_encode rfl, decode_of_encode rfl⟩

/-- Settles O7: the fetch joins the two bytes big-endian where both addresses are valid, and only there. -/
theorem fetchIsBigEndian : Obligations.FetchIsBigEndian := by
  intro s
  have hf := fetchWord_eq s
  refine ⟨fun hi lo hhi hlo => ?_, ?_, fun hpc hc => ?_⟩
  · rw [State.readByte_eq] at hhi hlo
    split at hlo
    · rw [if_pos (by omega)] at hhi hf
      cases hhi
      cases hlo
      exact ⟨_, hf, wordOfBytes_toNat _ _⟩
    · cases hlo
  · rw [hf]
    split <;> simp [*]
  · exact coreStep_of_fetch_none hc (hf.trans (if_neg (Nat.not_le_of_gt hpc)))

/-- Settles O8: the `Step`'s inputs and the schedule touch neither the latch nor the fetch nor the decoder. -/
theorem stepRunsDecodedInstruction : Obligations.StepRunsDecodedInstruction := by
  intro s w i hc hw hd
  exact ⟨fun keys rnd rest hs => (step_cons hs).trans (coreStep_of_decode hc hw hd),
    fun hs => (step_nil hs).trans (coreStep_of_decode hc hw hd)⟩

/-- Settles O12: an empty schedule is a `Step`, and every other move is the schedule's first. -/
theorem everyStepAnswersNext : Obligations.EveryStepAnswersNext := by
  intro s
  cases hs : s.schedule with
  | nil => rw [step_nil hs]; exact coreStep_answers _
  | cons m rest => rw [step_cons hs]; exact perform_answers m _

/-- Settles O13: the key wait by its key, every other instruction by the shape of its answer. -/
theorem newPcOfEveryInstruction : Obligations.NewPcOfEveryInstruction := by
  intro i s
  by_cases hk : ∃ x, i = .ldVxK x
  · obtain ⟨x, rfl⟩ := hk
    exact exec_ldVxK_pc x s
  · obtain ⟨t, ht, he⟩ := exec_effect i s
    exact ⟨t, ht, he.pcFollowsTable (not_exists.mp hk)⟩

end Sys2Proof.Machine
end

section
/-!
SUPPORT. What the control flow instructions answer (spec/40_control_flow.md): the jumps and the skips as one lemma, return
and call each with its fault, and the stack that a return leaves.
-/

namespace Sys2Proof.Machine

/-- A word the encoder writes for an instruction spells it. -/
theorem spells_of_encode {w : Word} {i : Instr} (h : encode i = w) : Spells w i := ⟨h, decode_of_encode h⟩

section
variable {s : State}

/-- The register of a key skip that raises no fault names a key (R100, R126); `SKNP` has the same fault. -/
theorem namesKey_of_no_fault {x : RegNum} (hf : executeFault (.skp x) s = none) : namesKey (s.reg x) = true :=
  (namesKey_iff _).mpr (Nat.le_of_not_lt fun h => by simp [executeFault, h] at hf)

/-- A jump or a skip that raises no fault sets `pc` by the table of R59 and nothing else. -/
theorem exec_of_branches {i : Instr} (hb : branches i = true) (hf : executeFault i s = none) :
    exec i s = .next ((s.setPc (newPc i s)).completed false false) := by
  cases i with
  | jp nnn => rw [exec, execJp, addrOf_eq_ofNat]; rfl
  | jpV0 nnn => rw [exec, execJpV0, wordOf_add_addrOf]; rfl
  | seImm | seReg => exact complete_skipIf beq_iff_eq
  | sneImm | sneReg => exact complete_skipIf bne_iff_ne
  | skp x => exact (if_pos (namesKey_of_no_fault hf)).trans (complete_skipIf Iff.rfl)
  | sknp x => exact (if_pos (namesKey_of_no_fault hf)).trans (complete_skipIf (Bool.not_eq_true' _).to_iff)
  | _ => cases hb

/-- A jump or a skip that raises no fault completes at its target, with everything else as before. -/
theorem branch_completes {i : Instr} {a : Word} (hb : branches i = true) (hf : executeFault i s = none)
    (ha : newPc i s = a) :
    ∃ t, exec i s = .next t ∧ t.result = .completed false false ∧ t.pc = a ∧ KeepsRegs [] s t ∧ KeepsMemory s t ∧
      t = { s with pc := t.pc, result := t.result } :=
  ⟨_, exec_of_branches hb hf, rfl, ha, fun _ _ => rfl, fun _ => rfl, rfl⟩

/-- A jump to its own address leaves the state as it is (R72, R160). -/
theorem exec_jp_self {nnn : Addr12} (h : s.pc.toNat = nnn.toNat) :
    exec (.jp nnn) s = .next (s.completed false false) := by
  have hself : newPc (.jp nnn) s = s.pc := by rw [newPc, ← h, BitVec.ofNat_toNat, BitVec.setWidth_eq]
  rw [exec_of_branches rfl rfl, hself]
  rfl

/-- A return takes the newest entry off the stack and goes to it plus 2 (R71). -/
theorem exec_ret_of_cons {a : Word} {rest : List Word} (h : s.stack = a :: rest) :
    exec .ret s = .next ((({ s with stack := rest } : State).setPc (a + 2#16)).completed false false) := by
  rw [exec, execRet, State.pop_cons h]; rfl

/-- A return with an empty stack faults (R71, R122). -/
theorem exec_ret_of_empty (h : s.sp = 0) : exec .ret s = .next (latched .stackUnderflow 0 s) := by
  rw [exec, execRet, State.pop_nil (List.length_eq_zero_iff.mp h)]; rfl

/-- A call below the bound puts its own address on the stack and goes to its target (R73). -/
theorem exec_call_of_lt (nnn : Addr12) (h : s.sp < s.cfg.stackDepth) :
    exec (.call nnn) s = .next (((s.push s.pc).setPc (addrOf nnn)).completed false false) := if_pos h

/-- A call with a full stack faults (R73, R124). -/
theorem exec_call_of_full (nnn : Addr12) (h : s.sp = s.cfg.stackDepth) :
    exec (.call nnn) s = .next (latched .stackOverflow 0 s) := if_neg h.not_lt

/-- The entry at `sp` - 1 is the head of the stack. -/
theorem State.stack_of_stackEntry_newest {a : Word} (h : s.stackEntry (s.sp - 1) = some a) :
    ∃ rest, s.stack = a :: rest := by
  cases hs : s.stack with
  | nil => simpa [hs] using State.mem_of_stackEntry h
  | cons b rest =>
    cases h.symm.trans (State.stackEntry_newest hs)
    exact ⟨rest, rfl⟩

/-- Without the newest entry, the older ones are as before (R16). -/
theorem State.stackEntry_rest {a : Word} {rest : List Word} (h : s.stack = a :: rest) {k : Nat}
    (hk : k < rest.length) : ({ s with stack := rest } : State).stackEntry k = s.stackEntry k := by
  have hpush := State.stackEntry_push_older { s with stack := rest } a k hk
  rw [← hpush, State.stackEntry, State.stackEntry, h, State.push_stack]

end

end Sys2Proof.Machine
end

section
/-!
PROOFS. The statements of spec/40_control_flow.md.
-/

namespace Sys2Proof.Machine

/-- Settles O21: the cleared framebuffer has every cell off. -/
theorem clsClearsEveryCell : Obligations.ClsClearsEveryCell :=
  ⟨spells_of_encode rfl,
    fun _ => ⟨_, rfl, rfl, fbGet_fbClear, rfl, rfl, fun _ _ => rfl, fun _ => rfl, rfl⟩⟩

/-- Settles O22: the entry at `sp` - 1 is the head of the stack, which the return takes off. -/
theorem retContinuesAfterCall : Obligations.RetContinuesAfterCall := by
  refine ⟨spells_of_encode rfl, fun s a ha => ?_, fun s => exec_ret_of_empty⟩
  obtain ⟨rest, hs⟩ := State.stack_of_stackEntry_newest ha
  have hsp : rest.length = s.sp - 1 := by rw [State.sp, hs, List.length_cons, Nat.add_sub_cancel]
  exact ⟨_, exec_ret_of_cons hs, rfl, rfl, hsp, fun _ hk => State.stackEntry_rest hs hk, fun _ _ => rfl, fun _ => rfl, rfl⟩

/-- Settles O23: the target is the address field, which fits in `pc`. -/
theorem jumpGoesToTarget : Obligations.JumpGoesToTarget := by
  refine fun nnn => ⟨spells_of_encode rfl, fun s => ?_⟩
  obtain ⟨t, ht, hr, hpc, hframe⟩ := branch_completes (i := .jp nnn) (s := s) rfl rfl (addrOf_eq_ofNat nnn).symm
  exact ⟨t, ht, hr, hpc ▸ addrOf_toNat nnn, hframe⟩

/-- Settles O24: the call pushes `pc`, and the entries below it are those of before the push. -/
theorem callPushesItsOwnAddress : Obligations.CallPushesItsOwnAddress :=
  fun nnn => ⟨spells_of_encode rfl,
    fun s hd => ⟨_, exec_call_of_lt nnn hd, rfl, addrOf_toNat nnn, rfl, s.stackEntry_push_newest s.pc,
      s.stackEntry_push_older s.pc, fun _ _ => rfl, fun _ => rfl, rfl⟩,
    fun _ => exec_call_of_full nnn⟩

/-- Settles O25: the head of the stack after the call is the call's address. -/
theorem returnUndoesCall : Obligations.ReturnUndoesCall :=
  fun nnn _ hd => ⟨_, _, exec_call_of_lt nnn hd, exec_ret_of_cons rfl, rfl, rfl⟩

/-- Settles O26, as two skips whose condition compares bytes by their values. -/
theorem compareImmediateSkips : Obligations.CompareImmediateSkips :=
  fun _ _ => ⟨spells_of_encode rfl, spells_of_encode rfl, fun _ =>
    ⟨branch_completes rfl rfl (if_congr BitVec.toNat_inj.symm rfl rfl),
      branch_completes rfl rfl (if_congr (not_congr BitVec.toNat_inj.symm) rfl rfl)⟩⟩

/-- Settles O27, as two skips whose condition compares registers by their values. -/
theorem compareRegistersSkips : Obligations.CompareRegistersSkips :=
  fun _ _ => ⟨spells_of_encode rfl, spells_of_encode rfl, fun _ =>
    ⟨branch_completes rfl rfl (if_congr BitVec.toNat_inj.symm rfl rfl),
      branch_completes rfl rfl (if_congr (not_congr BitVec.toNat_inj.symm) rfl rfl)⟩⟩

/-- Settles O28: the sum is at most 0x10FE, so 16 bits hold it. -/
theorem jumpWithOffsetAddsV0 : Obligations.JumpWithOffsetAddsV0 := by
  refine fun nnn => ⟨spells_of_encode rfl, fun s => ?_⟩
  obtain ⟨t, ht, hr, hpc, hframe⟩ := branch_completes (i := .jpV0 nnn) (s := s) rfl rfl rfl
  have hsum : (s.reg 0#4).toNat + nnn.toNat < 2 ^ 16 := by have := nnn.isLt; have := (s.reg 0#4).isLt; omega
  exact ⟨t, ht, hr, hpc ▸ (BitVec.toNat_ofNat _ 16).trans (Nat.mod_eq_of_lt hsum), hframe⟩

/-- Settles O55: the jump's target is the `pc` the state has. -/
theorem jumpToSelfChangesNothing : Obligations.JumpToSelfChangesNothing := by
  intro s nnn keys rnd rest hs hc hpc hw
  have hd : decode s.cfg.undocOps (0x1#4 ++ nnn) = .ok (.jp nnn) :=
    decode_encode (i := .jp nnn) (wellFormed_of_documented rfl)
  calc step s = coreStep { s with keys := keys, rnd := rnd, schedule := rest } := step_cons hs
    _ = exec (.jp nnn) { s with keys := keys, rnd := rnd, schedule := rest } := coreStep_of_decode hc hw hd
    _ = _ := exec_jp_self hpc

end Sys2Proof.Machine
end

section
/-!
SUPPORT. The bytes and flags of spec/41_alu.md by their values, and what an instruction answers that writes one register,
or a register and then the flag.
-/

namespace Sys2Proof.Machine

/-! ### Results and flags by their values (R82, R87 to R91) -/

section
variable (a b : Byte)

/-- The value of a sum of bytes (R82, R87). -/
theorem addByte_toNat : (addByte a b).toNat = (a.toNat + b.toNat) % 256 := BitVec.toNat_ofNat _ 8

/-- The difference modulo 256 is the subtraction of bit vectors (R88, R89). -/
theorem subByte_eq : subByte a b = a - b :=
  BitVec.eq_of_toNat_eq (by have := b.isLt; rw [subByte, BitVec.toNat_ofNat, BitVec.toNat_sub]; omega)

/-- Halving is the logical shift right by one (R90). -/
theorem shrByte_eq : shrByte a = a >>> 1 :=
  BitVec.eq_of_toNat_eq (by
    have := a.isLt
    rw [shrByte, BitVec.toNat_ofNat, BitVec.toNat_ushiftRight, Nat.shiftRight_eq_div_pow]; omega)

/-- Doubling modulo 256 is the shift left by one (R91). -/
theorem shlByte_eq : shlByte a = a <<< 1 :=
  BitVec.eq_of_toNat_eq (by
    rw [shlByte, BitVec.toNat_ofNat, BitVec.toNat_shiftLeft, Nat.shiftLeft_eq, Nat.pow_one])

/-- The value VF receives for a condition (R12). -/
theorem flagByte_decide_toNat (p : Prop) [Decidable p] : (flagByte (decide p)).toNat = if p then 1 else 0 := by
  by_cases h : p <;> simp [flagByte, h]

/-- The flag of a shift right is the value of bit 0 (R90). -/
theorem flagByte_shrBit_toNat : (flagByte (shrBit a)).toNat = a.toNat % 2 := by
  rw [shrBit, flagByte_decide_toNat]; split <;> omega

/-- The flag of a shift left is the value of bit 7 (R91). -/
theorem flagByte_shlBit_toNat : (flagByte (shlBit a)).toNat = a.toNat / 128 := by
  have := a.isLt
  rw [shlBit, flagByte_decide_toNat]; split <;> omega

end

/-! ### One register, or a register and then the flag -/

section
variable {s : State} {i : Instr} {x : RegNum} {b : Byte} {f : Bool} {n : Nat} {P : State → Prop}

/-- An instruction that writes one register completes with the byte there, at the next instruction, and everything else as
before. `P` is what the statement says of the result. -/
theorem setReg_completes (he : exec i s = complete (s.setReg x b).advance) (hP : ∀ t, t.reg x = b → P t) :
    ∃ t, exec i s = .next t ∧ t.result = .completed false false ∧ P t ∧ t.pc = s.pc + 2#16 ∧
      KeepsRegs [x] s t ∧ KeepsMemory s t ∧ t = { s with v := t.v, pc := t.pc, result := t.result } := by
  refine ⟨_, he, rfl, hP _ ?result, rfl, fun r hr => ?others, fun _ => rfl, rfl⟩
  case result => exact (s.setReg_reg x x b).trans (if_pos rfl)
  case others => exact (s.setReg_reg x r b).trans (if_neg fun h => hr (List.mem_singleton.mpr h))

/-- An instruction that writes a register and then VF completes with the flag in VF whatever the register is, with the byte
in the register where it is not VF, at the next instruction, and everything else as before (R13). -/
theorem setRegFlag_completes (he : exec i s = complete (s.setRegFlag x b f).advance) (hP : ∀ t, t.reg x = b → P t)
    (hf : (flagByte f).toNat = n) :
    ∃ t, exec i s = .next t ∧ t.result = .completed false false ∧ (x ≠ 0xF#4 → P t) ∧ (t.reg 0xF#4).toNat = n ∧
      t.pc = s.pc + 2#16 ∧ KeepsRegs [x, 0xF#4] s t ∧ KeepsMemory s t ∧
      t = { s with v := t.v, pc := t.pc, result := t.result } := by
  refine ⟨_, he, rfl, fun hx => hP _ ?result, ?flag, rfl, fun r hr => ?others, fun _ => rfl, rfl⟩
  case result => exact (s.setRegFlag_reg x x b f).trans ((if_neg hx).trans (if_pos rfl))
  case flag => exact (congrArg BitVec.toNat ((s.setRegFlag_reg x vf b f).trans (if_pos rfl))).trans hf
  case others =>
    obtain ⟨hrx, hrf⟩ : r ≠ x ∧ r ≠ vf := by simpa [vf] using hr
    exact (s.setRegFlag_reg x r b f).trans ((if_neg hrf).trans (if_neg hrx))

end

end Sys2Proof.Machine
end

section
/-!
PROOFS. The statements of spec/41_alu.md.
-/

namespace Sys2Proof.Machine

/-- Settles O29: both write one register, the sum being taken modulo 256. -/
theorem loadAndAddImmediate : Obligations.LoadAndAddImmediate :=
  fun _ _ => ⟨spells_of_encode rfl, spells_of_encode rfl, fun _ =>
    ⟨setReg_completes rfl fun _ h => h, setReg_completes rfl fun _ h => h ▸ addByte_toNat _ _⟩⟩

/-- Settles O30: all four write one register, the logic bit by bit. -/
theorem copyAndLogic : Obligations.CopyAndLogic :=
  fun _ _ => ⟨spells_of_encode rfl, spells_of_encode rfl, spells_of_encode rfl, spells_of_encode rfl, fun _ =>
    ⟨setReg_completes rfl fun _ h => h,
      setReg_completes rfl fun _ h _ => h ▸ BitVec.getLsbD_or,
      setReg_completes rfl fun _ h _ => h ▸ BitVec.getLsbD_and,
      setReg_completes rfl fun _ h _ => h ▸ BitVec.getLsbD_xor⟩⟩

/-- Settles O31: a register and then the flag, which is the carry of the old values. -/
theorem addRegistersWithCarry : Obligations.AddRegistersWithCarry :=
  fun _ _ => ⟨spells_of_encode rfl, fun _ =>
    setRegFlag_completes rfl (fun _ h => h ▸ addByte_toNat _ _) (flagByte_decide_toNat _)⟩

/-- Settles O32: a register and then the flag, which compares the old values. -/
theorem subtractReportsNoBorrow : Obligations.SubtractReportsNoBorrow :=
  fun _ _ => ⟨spells_of_encode rfl, fun _ =>
    setRegFlag_completes rfl (fun _ h => h.trans (subByte_eq _ _)) (flagByte_decide_toNat _)⟩

/-- Settles O33, as O32 with the operands exchanged. -/
theorem reverseSubtractReportsNoBorrow : Obligations.ReverseSubtractReportsNoBorrow :=
  fun _ _ => ⟨spells_of_encode rfl, fun _ =>
    setRegFlag_completes rfl (fun _ h => h.trans (subByte_eq _ _)) (flagByte_decide_toNat _)⟩

/-- Settles O34: a register and then the flag, which is the remainder of halving. -/
theorem shiftRightReportsLowBit : Obligations.ShiftRightReportsLowBit :=
  fun _ _ => ⟨spells_of_encode rfl, fun _ =>
    setRegFlag_completes rfl (fun _ h => h.trans (shrByte_eq _)) (flagByte_shrBit_toNat _)⟩

/-- Settles O35: a register and then the flag, which is the quotient by 128. -/
theorem shiftLeftReportsHighBit : Obligations.ShiftLeftReportsHighBit :=
  fun _ _ => ⟨spells_of_encode rfl, fun _ =>
    setRegFlag_completes rfl (fun _ h => h.trans (shlByte_eq _)) (flagByte_shlBit_toNat _)⟩

end Sys2Proof.Machine
end

section
/-!
SUPPORT. What the draw answers (spec/42_draw.md R95): the state it leaves, with each cell and the flag by the cells the
sprite lights, and what a second draw finds (R96).
-/

namespace Sys2Proof.Machine

/-- A flag byte is 1 exactly when the flag is set (R12). -/
theorem flagByte_eq_one (f : Bool) : flagByte f = 1#8 ↔ f = true := by cases f <;> decide

/-- A flag byte is 0 exactly when the flag is not set (R12). -/
theorem flagByte_eq_zero (f : Bool) : flagByte f = 0#8 ↔ ¬ f = true := by cases f <;> decide

/-- A cell is lit exactly when a 1 bit of the bytes from `I` up falls on it, in the terms of the drawing loops. -/
theorem spriteLit_iff {s : State} {n : Nat} (hn : n = 0 ∨ s.base + n ≤ 4096) (x0 y0 : Byte) (row : Fin 32)
    (col : Fin 64) :
    spriteLit s x0 y0 n row col ↔
      ∃ r c, r < (s.bytesFrom s.base n).length ∧ c < 8 ∧ spriteCell .wrap x0 y0 r c = (row, col) ∧
        spriteBit ((s.bytesFrom s.base n).getD r 0#8) c = true := by
  have hbyte {r : Nat} (hr : r < n) : s.readByte (s.base + r) = some ((s.bytesFrom s.base n).getD r 0#8) := by
    rw [State.readByte_eq, if_pos (by omega), List.getD_eq_getElem _ _ (by rwa [State.bytesFrom_length]),
      State.bytesFrom_getElem]
  rw [State.bytesFrom_length]
  constructor
  · rintro ⟨r, c, b, hr, hc, hrow, hcol, hb, hbit⟩
    cases (hbyte hr).symm.trans hb
    exact ⟨r, c, hr, hc, Prod.ext (Fin.ext hrow.symm) (Fin.ext hcol.symm), (spriteBit_iff _ c).mpr hbit⟩
  · rintro ⟨r, c, hr, hc, hcell, hbit⟩
    cases hcell
    exact ⟨r, c, _, hr, hc, rfl, rfl, hbyte hr, (spriteBit_iff _ c).mp hbit⟩

/-- The framebuffer and the collision after drawing the `n` bytes from `I` up at (`V[x]`, `V[y]`). -/
def State.drawing (s : State) (x y : RegNum) (n : Nibble) : Framebuffer × Bool :=
  drawRows .wrap (s.reg x) (s.reg y) 0 (s.bytesFrom s.base n.toNat) (s.fb, false)

/-- The state a draw that completes leaves. -/
def State.drawn (s : State) (x y : RegNum) (n : Nibble) : State :=
  (({ s with fb := (s.drawing x y n).1, fbChanged := true }).setFlag (s.drawing x y n).2).advance.completed true false

section
variable {s : State} {x y : RegNum} {n : Nibble}

/-- A draw with a sprite address above 4095 faults and changes nothing else (R123). -/
theorem exec_drw_of_gt (h0 : 0 < n.toNat) (hn : 4096 < s.base + n.toNat) :
    exec (.drw x y n) s = .next (latched .memoryOutOfBounds (max s.index.toNat 4096) s) := by
  rw [exec, execDrw, State.readBytes_of_gt h0 hn]
  rfl

/-- A sprite has fewer rows than the grid. -/
theorem spriteRows_length_le (s : State) (n : Nibble) : (s.bytesFrom s.base n.toNat).length ≤ 32 := by
  rw [State.bytesFrom_length]
  exact n.isLt.le.trans (by decide)

/-- A draw leaves the collision in VF. -/
theorem State.drawn_vf : (s.drawn x y n).reg vf = flagByte (s.drawing x y n).2 :=
  (State.setFlag_reg _ vf _).trans (if_pos rfl)

/-- A draw leaves every register but VF. -/
theorem State.drawn_reg {r : RegNum} (hr : r ≠ vf) : (s.drawn x y n).reg r = s.reg r :=
  (State.setFlag_reg _ r _).trans (if_neg hr)

/-- After a draw whose position is not in VF, the same draw lights the same cells: it reads the same registers, `I` and
bytes (R96). -/
theorem spriteLit_drawn (hx : x ≠ vf) (hy : y ≠ vf) (row : Fin 32) (col : Fin 64) :
    spriteLit (s.drawn x y n) ((s.drawn x y n).reg x) ((s.drawn x y n).reg y) n.toNat row col ↔
      spriteLit s (s.reg x) (s.reg y) n.toNat row col := by
  rw [State.drawn_reg hx, State.drawn_reg hy]
  exact Iff.rfl

/-! ### A draw whose sprite addresses are all valid -/

variable (hn : n.toNat = 0 ∨ s.base + n.toNat ≤ 4096)
include hn

/-- Such a draw completes. -/
theorem exec_drw_of_le : exec (.drw x y n) s = .next (s.drawn x y n) := by
  have hedge : s.cfg.drawEdge = .wrap := by cases s.cfg.drawEdge; rfl
  rw [exec, execDrw, State.readBytes_of_le hn, hedge]
  rfl

/-- A draw inverts the lit cells and keeps the others. -/
theorem State.drawn_cell (row : Fin 32) (col : Fin 64)
    [Decidable (spriteLit s (s.reg x) (s.reg y) n.toNat row col)] :
    (s.drawn x y n).cell row col = (s.cell row col ^^ decide (spriteLit s (s.reg x) (s.reg y) n.toNat row col)) :=
  drawRows_cell _ _ _ (spriteRows_length_le s n) s.fb row col _ (spriteLit_iff hn _ _ row col)

/-- The collision of a draw is a lit cell that was on. -/
theorem State.drawing_collision :
    (s.drawing x y n).2 = true ↔
      ∃ row col, spriteLit s (s.reg x) (s.reg y) n.toNat row col ∧ s.cell row col = true := by
  simp only [spriteLit_iff hn]
  exact drawRows_collision _ _ _ (spriteRows_length_le s n) s.fb

/-- VF is 1 after a draw exactly when a lit cell was on. -/
theorem State.drawn_vf_eq_one :
    (s.drawn x y n).reg vf = 1#8 ↔
      ∃ row col, spriteLit s (s.reg x) (s.reg y) n.toNat row col ∧ s.cell row col = true := by
  rw [State.drawn_vf, flagByte_eq_one, State.drawing_collision hn]

/-- VF is 0 after a draw exactly when no lit cell was on. -/
theorem State.drawn_vf_eq_zero :
    (s.drawn x y n).reg vf = 0#8 ↔
      ¬ ∃ row col, spriteLit s (s.reg x) (s.reg y) n.toNat row col ∧ s.cell row col = true := by
  rw [State.drawn_vf, flagByte_eq_zero, State.drawing_collision hn]

/-- A lit cell is inverted. -/
theorem State.drawn_cell_of_lit {row : Fin 32} {col : Fin 64}
    (hl : spriteLit s (s.reg x) (s.reg y) n.toNat row col) : (s.drawn x y n).cell row col = !s.cell row col := by
  classical
  rw [State.drawn_cell hn, decide_eq_true hl, Bool.xor_true]

/-- A cell that is not lit is as before. -/
theorem State.drawn_cell_of_not_lit {row : Fin 32} {col : Fin 64}
    (hl : ¬ spriteLit s (s.reg x) (s.reg y) n.toNat row col) : (s.drawn x y n).cell row col = s.cell row col := by
  classical
  rw [State.drawn_cell hn, decide_eq_false hl, Bool.xor_false]

/-- Two identical draws whose position is not in VF restore every cell: a lit one is inverted twice (R96). -/
theorem State.drawn_drawn_fb (hx : x ≠ vf) (hy : y ≠ vf) : ((s.drawn x y n).drawn x y n).fb = s.fb := by
  refine fb_ext fun row col => ?_
  change ((s.drawn x y n).drawn x y n).cell row col = s.cell row col
  have hsame := spriteLit_drawn (s := s) (n := n) hx hy row col
  by_cases hl : spriteLit s (s.reg x) (s.reg y) n.toNat row col
  · rw [State.drawn_cell_of_lit (s := s.drawn x y n) hn (hsame.mpr hl), State.drawn_cell_of_lit hn hl, Bool.not_not]
  · rw [State.drawn_cell_of_not_lit (s := s.drawn x y n) hn (mt hsame.mp hl), State.drawn_cell_of_not_lit hn hl]

end

end Sys2Proof.Machine
end

section
/-!
PROOFS. The statements of spec/42_draw.md.
-/

namespace Sys2Proof.Machine

/-- Settles O36: a draw within memory leaves `State.drawn`, whose cells and flag the lit cells decide; any other faults. -/
theorem drawXorsSpriteIntoCells : Obligations.DrawXorsSpriteIntoCells := by
  refine fun x y n =>
    ⟨spells_of_encode rfl, fun s hle => ?_, fun _ h0 hgt => exec_drw_of_gt h0 (Nat.add_lt_of_lt_sub hgt)⟩
  have hn : n.toNat = 0 ∨ s.base + n.toNat ≤ 4096 := hle.imp_right Nat.le_add_of_sub_le
  exact ⟨s.drawn x y n, exec_drw_of_le hn, rfl, fun _ _ => State.drawn_cell_of_lit hn,
    fun _ _ => State.drawn_cell_of_not_lit hn, (State.drawn_vf_eq_one hn).mpr, (State.drawn_vf_eq_zero hn).mpr, rfl, rfl,
    fun _ hr => State.drawn_reg (mt List.mem_singleton.mpr hr), fun _ => rfl, rfl⟩

/-- Settles O37: a cell the first draw turns on is lit and on for the second, and where every lit cell was off, every lit
cell is. -/
theorem drawTwiceRestoresFramebuffer : Obligations.DrawTwiceRestoresFramebuffer := by
  intro x y n s hx hy hle
  have hn : n.toNat = 0 ∨ s.base + n.toNat ≤ 4096 := hle.imp_right Nat.le_add_of_sub_le
  refine ⟨s.drawn x y n, (s.drawn x y n).drawn x y n, exec_drw_of_le hn, exec_drw_of_le hn, State.drawn_drawn_fb hn hx hy,
    fun ⟨row, col, hoff, hon⟩ => ?set, fun hoff => ?fresh⟩
  case set =>
    have hl : spriteLit s (s.reg x) (s.reg y) n.toNat row col := by
      by_contra hl
      rw [State.drawn_cell_of_not_lit hn hl, hoff] at hon
      cases hon
    exact (State.drawn_vf_eq_one (s := s.drawn x y n) hn).mpr ⟨row, col, (spriteLit_drawn hx hy row col).mpr hl, hon⟩
  case fresh =>
    have hon (row col) (hl : spriteLit s (s.reg x) (s.reg y) n.toNat row col) : (s.drawn x y n).cell row col = true := by
      rw [State.drawn_cell_of_lit hn hl, hoff row col hl, Bool.not_false]
    refine (State.drawn_vf_eq_zero (s := s.drawn x y n) hn).trans (not_congr (exists₂_congr fun row col => ?_))
    rw [spriteLit_drawn hx hy]
    exact and_iff_left_of_imp (hon row col)

end Sys2Proof.Machine
end

section
/-!
SUPPORT. What the instructions of spec/43_timer_memory_input.md answer: those that write `I`, the key wait, and the transfers
between registers and memory, each with its fault.
-/

namespace Sys2Proof.Machine

/-! ### What a run of stores or of register writes leaves unchanged -/

/-- Storing bytes writes nothing but memory (R34). -/
theorem State.exists_mem_of_storeFrom (s : State) (a : Nat) (bs : List Byte) :
    ∃ m, s.storeFrom a bs = { s with mem := m } := by
  induction bs generalizing s a with
  | nil => exact ⟨s.mem, rfl⟩
  | cons b bs ih => exact ih (s.writeByte a b) (a + 1)

/-- Writing a range of registers writes nothing but the register file (R109). -/
theorem State.exists_v_of_setRegsFrom (s : State) (k : Nat) (bs : List Byte) :
    ∃ v, s.setRegsFrom k bs = { s with v := v } := by
  induction bs generalizing s k with
  | nil => exact ⟨s.v, rfl⟩
  | cons b bs ih => exact ih (s.setReg (BitVec.ofNat 4 k) b) (k + 1)

/-! ### Index register and keys -/

section
variable {s : State} {i : Instr} {x : RegNum} {P : State → Prop}

/-- An instruction that writes `I` completes with the word there, at the next instruction, and everything else as before.
`P` is what the statement says of the result. -/
theorem setIndex_completes {a : Word} (he : exec i s = complete ({ s with index := a } : State).advance)
    (hP : ∀ t : State, t.index = a → P t) :
    ∃ t, exec i s = .next t ∧ t.result = .completed false false ∧ P t ∧ t.pc = s.pc + 2#16 ∧
      KeepsRegs [] s t ∧ KeepsMemory s t ∧ t = { s with index := t.index, pc := t.pc, result := t.result } :=
  ⟨_, he, rfl, hP _ rfl, rfl, fun _ _ => rfl, fun _ => rfl, rfl⟩

/-- A key skip whose register is at most 15 raises no fault; `SKNP` has the same fault (R100, R101). -/
theorem executeFault_skp_of_le (h : (s.reg x).toNat ≤ 15) : executeFault (.skp x) s = none := if_neg h.not_gt

/-- The lowest key is the only selection there is (R4, R103). -/
theorem keySelect_eq_lowest (k : KeySelect) : k = .lowest := by cases k; rfl

/-- The key wait stays while no key is pressed, and reports it (R103). -/
theorem exec_ldVxK_of_none (h : ∀ k, k < 16 → s.keyDown k = false) :
    exec (.ldVxK x) s = .next (s.completed false true) := by
  have hkeys : s.keys = 0#16 := BitVec.eq_of_getLsbD_eq fun k hk => (h k hk).trans BitVec.getLsbD_zero.symm
  rw [exec, execLdVxK, (selectKey_eq_none _ _).mpr hkeys]

/-- The key wait stores the lowest pressed key and goes on (R103). -/
theorem exec_ldVxK_of_lowest {k : Nat} (hk : k < 16) (hdown : s.keyDown k = true)
    (hlow : ∀ j, j < k → s.keyDown j = false) :
    exec (.ldVxK x) s = complete (s.setReg x (BitVec.ofNat 8 k)).advance := by
  rw [exec, execLdVxK, keySelect_eq_lowest s.cfg.keySelect, (selectKey_eq_some _ _).mpr ⟨hk, hdown, hlow⟩]
  rfl

/-! ### Stores at `I` (R107, R108) -/

/-- An instruction that stores `n` bytes from `I` up, all within memory, completes with the bytes there, at the next
instruction, and everything else as before. `P` is what the statement says of the stored bytes. -/
theorem store_completes {bs : List Byte} {n : Nat} (hn : bs.length = n) (hle : s.base + n ≤ 4096)
    (he : exec i s = complete (s.storeFrom s.base bs).advance)
    (hP : ∀ t : State, (∀ k, k < n → t.readByte (s.base + k) = bs[k]?) → P t) :
    ∃ t, exec i s = .next t ∧ t.result = .completed false false ∧ P t ∧ t.pc = s.pc + 2#16 ∧ KeepsRegs [] s t ∧
      KeepsMemoryOutside s.base n s t ∧ t = { s with mem := t.mem, pc := t.pc, result := t.result } := by
  subst hn
  refine ⟨_, he, rfl, hP _ fun k hk => State.storeFrom_readByte hle hk, ?pc, fun r _ => s.storeFrom_reg s.base bs r,
    fun a ha => State.storeFrom_readByte_outside hle ha, ?frame⟩
  case pc => exact congrArg (· + 2#16) (s.storeFrom_pc s.base bs)
  case frame =>
    obtain ⟨m, hm⟩ := s.exists_mem_of_storeFrom s.base bs
    rw [hm]
    rfl

/-- The decimal digits stored within memory (R107). -/
theorem exec_ldB_of_le (h : s.base + 3 ≤ 4096) :
    exec (.ldB x) s = complete (s.storeFrom s.base (bcdDigits (s.reg x))).advance := by
  rw [exec, execLdB, State.writeBytes_of_le h]

/-- The decimal digits that reach above address 4095 fault and store nothing (R107, R123). -/
theorem exec_ldB_of_gt (h : 4096 < s.base + 3) :
    exec (.ldB x) s = .next (latched .memoryOutOfBounds (max s.index.toNat 4096) s) := by
  rw [exec, execLdB, State.writeBytes_of_gt (by rw [bcdDigits_length]; decide) h]
  rfl

/-- A register range is never empty. -/
theorem rangeCount_pos (x : RegNum) : 0 < rangeCount x := Nat.succ_pos _

/-- A dump that reaches above address 4095 faults and stores nothing (R108, R123). -/
theorem exec_ldMemVx_of_gt (h : 4096 < s.base + rangeCount x) :
    exec (.ldMemVx x) s = .next (latched .memoryOutOfBounds (max s.index.toNat 4096) s) := by
  have hlen : (s.regsFrom 0 (rangeCount x)).length = rangeCount x := s.regsFrom_length 0 _
  rw [exec, execLdMemVx, State.writeBytes_of_gt (hlen.symm ▸ rangeCount_pos x) (hlen.symm ▸ h)]
  rfl

/-- The value at place `r` of a range that starts at `V[0]` and takes in `r` is `V[r]` (R108). -/
theorem State.regsFrom_zero_getElem? {r : RegNum} {n : Nat} (h : r.toNat < n) :
    (s.regsFrom 0 n)[r.toNat]? = some (s.reg r) := by
  simp [State.regsFrom_eq, h]

/-! ### Loads from `I` (R109) -/

/-- A load that reaches above address 4095 faults and writes no register (R109, R123). -/
theorem exec_ldVxMem_of_gt (h : 4096 < s.base + rangeCount x) :
    exec (.ldVxMem x) s = .next (latched .memoryOutOfBounds (max s.index.toNat 4096) s) := by
  rw [exec, execLdVxMem, State.readBytes_of_gt (rangeCount_pos x) h]
  rfl

/-- After the bytes from `a` up were written to `V[0]` .. `V[n - 1]`, a register of the range holds the byte of its place, and
every other register is as before. -/
theorem State.setRegsFrom_bytesFrom_reg {a n : Nat} (hn : n ≤ 16) (r : RegNum) :
    (s.setRegsFrom 0 (s.bytesFrom a n)).reg r = if r.toNat < n then s.byteAt (a + r.toNat) else s.reg r := by
  rw [State.setRegsFrom_reg _ _ _ _ (by rwa [State.bytesFrom_length, Nat.zero_add]), if_pos (Nat.zero_le _),
    State.bytesFrom_eq]
  split <;> simp [*]

/-- A load of `V[0]` .. `V[x]` within memory writes nothing but the register file, in which the registers of the range hold
the bytes of their places (R109). -/
theorem exec_ldVxMem_of_le (h : s.base + rangeCount x ≤ 4096) :
    ∃ v, exec (.ldVxMem x) s = complete ({ s with v := v } : State).advance ∧
      ∀ r, ({ s with v := v } : State).reg r = if r.toNat < rangeCount x then s.byteAt (s.base + r.toNat) else s.reg r := by
  obtain ⟨v, hv⟩ := s.exists_v_of_setRegsFrom 0 (s.bytesFrom s.base (rangeCount x))
  refine ⟨v, ?_, fun r => hv ▸ State.setRegsFrom_bytesFrom_reg x.isLt r⟩
  rw [exec, execLdVxMem, State.readBytes_of_le (.inr h), ← hv]

end

end Sys2Proof.Machine
end

section
/-!
PROOFS. The statements of spec/43_timer_memory_input.md.
-/

namespace Sys2Proof.Machine

/-- Settles O38: two skips whose register names a key; any other value raises their one fault. -/
theorem keySkipsSampleTheVector : Obligations.KeySkipsSampleTheVector := by
  refine fun x => ⟨spells_of_encode rfl, spells_of_encode rfl, fun s hle => ?_, fun s hgt => ?_⟩
  · exact ⟨branch_completes rfl (executeFault_skp_of_le hle) rfl, branch_completes rfl (executeFault_skp_of_le hle) rfl⟩
  · have hname : ¬ namesKey (s.reg x) = true := mt (namesKey_iff _).mp hgt.not_ge
    exact ⟨if_neg hname, if_neg hname⟩

/-- Settles O39: no selection without a key, else one register is written, which holds any key's number. -/
theorem keyWaitStallsOrStoresLowest : Obligations.KeyWaitStallsOrStoresLowest := by
  refine fun x => ⟨spells_of_encode rfl, fun s h => ⟨_, exec_ldVxK_of_none h, rfl⟩, fun s k hk hdown hlow => ?_⟩
  have hbyte : (BitVec.ofNat 8 k).toNat = k := by rw [BitVec.toNat_ofNat]; omega
  exact setReg_completes (exec_ldVxK_of_lowest hk hdown hlow) fun t ht => ht ▸ hbyte

/-- Settles O40: a register or a timer is written, and nothing counts. -/
theorem timerRegistersAreMoved : Obligations.TimerRegistersAreMoved :=
  fun _ => ⟨spells_of_encode rfl, spells_of_encode rfl, spells_of_encode rfl, fun _ =>
    ⟨setReg_completes rfl fun _ h => h,
      ⟨_, rfl, rfl, rfl, rfl, fun _ _ => rfl, fun _ => rfl, rfl⟩,
      ⟨_, rfl, rfl, rfl, rfl, fun _ _ => rfl, fun _ => rfl, rfl⟩⟩⟩

/-- Settles O41: all three write `I`; the sum is taken modulo 65536, the glyph address and the field fit. -/
theorem indexRegisterIsComputed : Obligations.IndexRegisterIsComputed := by
  refine fun x nnn => ⟨spells_of_encode rfl, spells_of_encode rfl, spells_of_encode rfl, fun s => ?_⟩
  have hsum : (s.index + wordOf (s.reg x)).toNat = (s.index.toNat + (s.reg x).toNat) % 65536 := by
    rw [BitVec.toNat_add, wordOf_toNat]
  exact ⟨setIndex_completes rfl fun _ h => h ▸ hsum, setIndex_completes rfl fun _ h => h ▸ glyphAddress_toNat _,
    setIndex_completes rfl fun _ h => h ▸ addrOf_toNat nnn⟩

/-- Settles O43: three stored bytes, the digits, or the fault. -/
theorem storeDecimalDigits : Obligations.StoreDecimalDigits := by
  refine fun x => ⟨spells_of_encode rfl, fun s hle => ?_, fun s hgt => exec_ldB_of_gt (Nat.succ_lt_succ hgt)⟩
  have hle : s.base + 3 ≤ 4096 := Nat.succ_le_succ hle
  obtain ⟨t, ht, hr, hbytes, hframe⟩ :=
    store_completes (bcdDigits_length (s.reg x)) hle (exec_ldB_of_le hle) fun _ h => h
  exact ⟨t, ht, hr, hbytes 0 (by decide), hbytes 1 (by decide), hbytes 2 (by decide), hframe⟩

/-- Settles O44: the bytes of the range are stored, each at its place, or the dump faults. -/
theorem registerDumpStoresRange : Obligations.RegisterDumpStoresRange := by
  refine fun x => ⟨spells_of_encode rfl, fun s hle => ?_, fun s hgt => exec_ldMemVx_of_gt (Nat.succ_lt_succ hgt)⟩
  refine store_completes (s.regsFrom_length 0 (rangeCount x)) (Nat.succ_le_succ hle) (exec_ldMemVx_of_le hle) ?_
  intro t hbytes r hr
  have hr : r.toNat < rangeCount x := Nat.lt_succ_of_le hr
  exact (hbytes r.toNat hr).trans (State.regsFrom_zero_getElem? hr)

/-- Settles O45: the registers of the range hold the bytes of their places, those above are kept, or the load faults. -/
theorem registerLoadReadsRange : Obligations.RegisterLoadReadsRange := by
  refine fun x => ⟨spells_of_encode rfl, fun s hle => ?_, fun s hgt => exec_ldVxMem_of_gt (Nat.succ_lt_succ hgt)⟩
  obtain ⟨v, hexec, hreg⟩ := exec_ldVxMem_of_le (Nat.succ_le_succ hle)
  refine ⟨_, hexec, rfl, fun r hr => ?loaded, fun r hr => ?kept, rfl, fun _ => rfl, rfl⟩
  case loaded =>
    rw [State.readByte_eq, if_pos (by omega)]
    exact congrArg some ((hreg r).trans (if_pos (Nat.lt_succ_of_le hr))).symm
  case kept => exact (hreg r).trans (if_neg (Nat.not_lt_of_le hr))

/-- Settles O46 by O44 and O45: `I` is the same throughout, so the load reads the bytes the dump stored. -/
theorem dumpThenLoadRoundTrips : Obligations.DumpThenLoadRoundTrips := by
  intro x s v' hle
  obtain ⟨-, hdump, -⟩ := registerDumpStoresRange x
  obtain ⟨t, ht, -, hstored, -, -, -, htframe⟩ := hdump s hle
  have hti : t.index = s.index := by rw [htframe]
  obtain ⟨-, hload, -⟩ := registerLoadReadsRange x
  obtain ⟨u, hu, -, hloaded, -, -, hmem, huframe⟩ := hload { t with v := v' } (hti ▸ hle)
  have hui : u.index = t.index := by rw [huframe]
  refine ⟨t, u, ht, hu, fun r hr => ?_, hmem⟩
  have hread : t.readByte (t.index.toNat + r.toNat) = some (u.reg r) := hloaded r hr
  constructor
  · rw [hti, hstored r hr] at hread
    exact (Option.some.inj hread).symm
  · rw [hui, hmem]
    exact hread

end Sys2Proof.Machine
end

section
/-!
SUPPORT. The words of the undocumented instructions under `UNDOC_OPS` = `fatal` (spec/44_undocumented_ops.md R118).
-/

namespace Sys2Proof.Machine

/-- Under `fatal` the word of an undocumented instruction is unrecognized: the only instruction the decoder could answer is
the one the word spells, and that one does not exist (R118). -/
theorem decode_fatal_of_undocumented {w : Word} {i : Instr} (hw : encode i = w) (hi : i.undocumented = true) :
    decode .fatal w = .error (.unrecognized w) := by
  have ha := decode_rightAnswer .fatal w
  cases hd : decode .fatal w with
  | error r =>
    rw [hd] at ha
    obtain ⟨rfl, -⟩ := ha
    rfl
  | ok j =>
    rw [hd] at ha
    obtain ⟨hj, hexists, -⟩ := ha
    have hsame : j = i := Except.ok.inj ((decode_of_encode hj).symm.trans (decode_of_encode hw))
    cases eq_implemented_of_undocumented hexists (hsame ▸ hi)

end Sys2Proof.Machine
end

section
/-!
PROOFS. The statements of spec/44_undocumented_ops.md.
-/

namespace Sys2Proof.Machine

/-- Settles O6: the word spells the instruction under `implemented`, and under `fatal` its `Step` fetches a word the decoder
rejects. -/
theorem undocumentedWordsFollowParameter : Obligations.UndocumentedWordsFollowParameter := by
  intro w i hw hi
  have hreject := decode_fatal_of_undocumented hw hi
  refine ⟨decode_of_encode hw, hreject, fun s keys rnd rest hcfg hclear hs hpc hword => ?_⟩
  have hfetch : fetchWord s = some w := by rw [fetchWord_eq, if_pos hpc, hword]
  exact (step_cons hs).trans (coreStep_of_reject hclear hfetch (hcfg ▸ hreject))

/-- Settles O42: one register is written, with the mask bit by bit. -/
theorem randomByteIsMasked : Obligations.RandomByteIsMasked :=
  fun _ _ => ⟨spells_of_encode rfl, fun _ => setReg_completes rfl fun _ h _ => h ▸ BitVec.getLsbD_and⟩

end Sys2Proof.Machine
end

section
/-!
SUPPORT. A `Step` against the fault table (spec/60_exceptions.md R120, R131), and the host's operations under a set latch
(R129).
-/

namespace Sys2Proof.Machine

section
variable {s : State}

/-! ### The fetch and the decoder in the fault table -/

/-- A `Step` that cannot fetch has the fetch's fault (R125, R131). -/
theorem stepFault_of_fetch_none (hw : fetchWord s = none) : stepFault s = some (.fetchOutOfBounds, s.pc.toNat) := by
  rw [fetchWord_eq] at hw
  split at hw
  · cases hw
  · next hpc => exact if_pos (Nat.lt_of_not_le hpc)

/-- A `Step` that can fetch has the fault of its word: the decoder's, or else the instruction's (R131). -/
theorem stepFault_of_fetch {w : Word} (hw : fetchWord s = some w) :
    (∀ r, decode s.cfg.undocOps w = .error r → stepFault s = some (.unrecognizedOpcode, w.toNat)) ∧
    (∀ i, decode s.cfg.undocOps w = .ok i → stepFault s = executeFault i s) := by
  rw [fetchWord_eq] at hw
  split at hw
  · next hpc =>
    cases hw
    rw [stepFault, if_neg hpc.not_gt]
    exact ⟨fun r hr => by simp only [hr], fun i hi => by simp only [hi]⟩
  · cases hw

/-! ### The execute phase against the fault table -/

/-- The outcome is a completed `Step` that leaves the latch of `s` (R24, R58). -/
def Completes (s : State) (o : Host.Outcome State Fault Refusal) : Prop :=
  ∃ t dirty waiting, o = .next t ∧ t.result = .completed dirty waiting ∧ t.faultCode = s.faultCode ∧
    t.faultInfo = s.faultInfo

/-- The outcome is the fault that the table gives for `s`, and a completed `Step` where it gives none (R120, R127). -/
def FollowsTable (s : State) (fault : Option (FaultCode × Nat)) (o : Host.Outcome State Fault Refusal) : Prop :=
  (∀ code info, fault = some (code, info) → o = .next (latched code info s)) ∧ (fault = none → Completes s o)

variable {o : Host.Outcome State Fault Refusal}

/-- Completing a state that has the latch of `s`. -/
theorem completes_complete {u : State} (hcode : u.faultCode = s.faultCode := by simp)
    (hinfo : u.faultInfo = s.faultInfo := by simp) : Completes s (complete u) := ⟨_, _, _, rfl, rfl, hcode, hinfo⟩

/-- A raised fault follows a table that gives it (R128). -/
theorem followsTable_some {code : FaultCode} {info : Nat} :
    FollowsTable s (some (code, info)) (.next (s.raised code info)) :=
  ⟨fun _ _ h => by cases h; rfl, nofun⟩

/-- A completed `Step` follows a table that gives no fault. -/
theorem followsTable_none (h : Completes s o) : FollowsTable s none o := ⟨nofun, fun _ => h⟩

/-- A fault with one condition: it is raised under the condition, and the `Step` completes otherwise. -/
theorem followsTable_ite {p : Prop} [Decidable p] {code : FaultCode} {info : Nat}
    (hp : p → o = .next (latched code info s)) (hn : ¬ p → Completes s o) :
    FollowsTable s (if p then some (code, info) else none) o := by
  split
  · next h => exact hp h ▸ followsTable_some
  · next h => exact followsTable_none (hn h)

/-- The memory fault, by the condition of the bounded accesses (R123). -/
theorem followsTable_memoryFault {n : Nat}
    (hgt : 0 < n → 4096 < s.base + n → o = .next (latched .memoryOutOfBounds (max s.index.toNat 4096) s))
    (hle : n = 0 ∨ s.base + n ≤ 4096 → Completes s o) : FollowsTable s (memoryFault n s) o := by
  refine followsTable_ite (fun ⟨h0, h⟩ => hgt h0 (Nat.add_lt_of_lt_sub h)) fun h => hle ?_
  rw [State.base]
  omega

/-- A jump or a skip that raises no fault completes (R59). -/
theorem completes_of_branches {i : Instr} (hb : branches i = true) (hf : executeFault i s = none) :
    Completes s (exec i s) := ⟨_, _, _, exec_of_branches hb hf, rfl, rfl, rfl⟩

/-- The key wait completes, with and without a key (R103). -/
theorem exec_ldVxK_completes (x : RegNum) : Completes s (exec (.ldVxK x) s) := by
  rw [exec, execLdVxK]
  cases selectKey s.cfg.keySelect s.keys <;> exact ⟨_, _, _, rfl, rfl, rfl, rfl⟩

/-- Every instruction follows the fault table from a state whose call stack is within its bound (R120). -/
theorem exec_followsTable (i : Instr) (hd : s.sp ≤ s.cfg.stackDepth) :
    FollowsTable s (executeFault i s) (exec i s) := by
  cases i with
  | ret =>
    refine followsTable_ite exec_ret_of_empty fun h => ?_
    obtain ⟨a, rest, hs⟩ := List.exists_cons_of_length_pos (Nat.pos_of_ne_zero h)
    exact ⟨_, _, _, exec_ret_of_cons hs, rfl, rfl, rfl⟩
  | call nnn =>
    exact followsTable_ite (exec_call_of_full nnn) fun h =>
      ⟨_, _, _, exec_call_of_lt nnn (Nat.lt_of_le_of_ne hd h), rfl, rfl, rfl⟩
  | drw x y n =>
    exact followsTable_memoryFault exec_drw_of_gt fun h => ⟨_, _, _, exec_drw_of_le h, rfl, rfl, rfl⟩
  | ldB x =>
    refine followsTable_memoryFault (fun _ => exec_ldB_of_gt) fun h => ?_
    rw [exec_ldB_of_le (by omega)]
    exact completes_complete
  | ldMemVx x =>
    refine followsTable_memoryFault (fun _ => exec_ldMemVx_of_gt) fun h => ?_
    rw [exec_ldMemVx_of_le (by omega)]
    exact completes_complete
  | ldVxMem x =>
    refine followsTable_memoryFault (fun _ => exec_ldVxMem_of_gt) fun h => ?_
    obtain ⟨v, hv, -⟩ := exec_ldVxMem_of_le (h.resolve_left (Nat.succ_ne_zero _))
    rw [hv]
    exact completes_complete
  | skp x | sknp x =>
    exact followsTable_ite (fun h => if_neg (mt (namesKey_iff _).mp h.not_ge)) fun h =>
      completes_of_branches rfl (if_neg h)
  | ldVxK x => exact followsTable_none (exec_ldVxK_completes x)
  | _ => exact followsTable_none ⟨_, _, _, rfl, rfl, rfl, rfl⟩

/-- A `Step` of a healthy session whose call stack is within its bound follows the fault table: fetch, decode, execute
(R131). -/
theorem coreStep_followsTable (hf : s.faultCode = .none) (hd : s.sp ≤ s.cfg.stackDepth) :
    FollowsTable s (stepFault s) (coreStep s) := by
  cases hw : fetchWord s with
  | none =>
    rw [stepFault_of_fetch_none hw, coreStep_of_fetch_none hf hw]
    exact followsTable_some
  | some w =>
    obtain ⟨hreject, hok⟩ := stepFault_of_fetch hw
    cases hi : decode s.cfg.undocOps w with
    | error r =>
      rw [hreject r hi, coreStep_of_reject hf hw hi]
      exact followsTable_some
    | ok i =>
      rw [hok i hi, coreStep_of_decode hf hw hi]
      exact exec_followsTable i hd

end

/-! ### The host's operations and the latch (R129) -/

/-- The state with this fault latch. -/
def State.withLatch (s : State) (code : FaultCode) (info : Nat) : State := { s with faultCode := code, faultInfo := info }

/-- Storing bytes neither reads nor writes the latch. -/
theorem State.storeFrom_withLatch (s : State) (code : FaultCode) (info a : Nat) (bs : List Byte) :
    (s.withLatch code info).storeFrom a bs = (s.storeFrom a bs).withLatch code info := by
  induction bs generalizing s a with
  | nil => rfl
  | cons b bs ih => exact ih (s.writeByte a b) (a + 1)

/-- Nor does loading a program. -/
theorem hostLoadProgram_withLatch (bytes : List Byte) (s : State) (code : FaultCode) (info : Nat) :
    hostLoadProgram bytes (s.withLatch code info) = (hostLoadProgram bytes s).withLatch code info := by
  by_cases h : bytes.length ≤ 3584
  · rw [hostLoadProgram_of_le _ h, hostLoadProgram_of_le _ h, State.storeFrom_withLatch]
    rfl
  · rw [hostLoadProgram_of_gt _ (Nat.lt_of_not_le h), hostLoadProgram_of_gt _ (Nat.lt_of_not_le h)]
    rfl

/-- A host operation other than `Reset` acts alike under every latch, and leaves it (R129). -/
theorem perform_withLatch {m : HostMove} (s : State) (hm : ∀ keys rnd, m ≠ .step keys rnd) (hr : m ≠ .reset) :
    ∃ t : State, ∀ code info, perform m (s.withLatch code info) = .next (t.withLatch code info) := by
  cases m with
  | step k r => exact absurd rfl (hm k r)
  | reset => exact absurd rfl hr
  | loadProgram bytes => exact ⟨_, fun code info => congrArg _ (hostLoadProgram_withLatch bytes s code info)⟩
  | setRegister i v => exact ⟨hostSetRegister i v s, fun _ _ => rfl⟩
  | timerTick => exact ⟨hostTimerTick s, fun _ _ => rfl⟩
  | ackFramebuffer => exact ⟨hostAckFramebuffer s, fun _ _ => rfl⟩

end Sys2Proof.Machine
end

section
/-!
PROOFS. The statements of spec/60_exceptions.md.
-/

namespace Sys2Proof.Machine

/-- Settles O9, by the fault table of the `Step` with its inputs in place; a latch left as it was is clear. -/
theorem faultTableAndPriority : Obligations.FaultTableAndPriority := by
  intro s keys rnd rest hs hf hd
  rw [step_cons hs]
  obtain ⟨hfault, hnone⟩ := coreStep_followsTable (s := { s with keys := keys, rnd := rnd, schedule := rest }) hf hd
  refine ⟨hfault, fun h => ?_⟩
  obtain ⟨t, dirty, waiting, ht, hresult, hcode, hinfo⟩ := hnone h
  exact ⟨t, dirty, waiting, ht, hresult, hcode.trans hf, hinfo⟩

/-- Settles O10: the cycle looks at the latch first, and no host operation but `Reset` reads or writes it. -/
theorem latchedStepChangesNothing : Obligations.LatchedStepChangesNothing := by
  refine fun s hf => ⟨fun keys rnd rest hs => (step_cons hs).trans (coreStep_latched hf), fun m rest hs hm hr => ?_⟩
  obtain ⟨t, ht⟩ := perform_withLatch { s with schedule := rest } hm hr
  have hclear : step (s.withLatch .none 0) = .next (t.withLatch .none 0) :=
    (step_cons (s := s.withLatch .none 0) hs).trans (ht .none 0)
  exact ⟨_, hclear, (step_cons hs).trans (ht s.faultCode s.faultInfo)⟩

/-- Settles O11: the free inputs stand in place of the schedule's, and the cycle looks at the latch first. -/
theorem latchedStepWithFreeInputsChangesNothing : Obligations.LatchedStepWithFreeInputsChangesNothing :=
  fun _ hf hs => (step_nil hs).trans (coreStep_latched hf)

/-- Settles O52: the tick of each timer by its value, and nothing else is written. -/
theorem timerTickCountsDown : Obligations.TimerTickCountsDown :=
  fun _ _ hs => ⟨_, step_cons hs, tickTimer_toNat _, tickTimer_toNat _, rfl⟩

end Sys2Proof.Machine
end

section
/-!
SUPPORT. What memory reads as at reset (spec/70_reset_and_hazards.md R150), and what the first `Step` fetches there (R156).
-/

namespace Sys2Proof.Machine

/-- Where `FONT` lies, memory initially reads as `FONT` (R26). -/
theorem memInitial_of_lt {font : Vector Byte 80} {a : Nat} (h : a < 80) : memInitial font a = font[a] := dif_pos h

/-- From the end of `FONT` up, memory initially reads as 0 (R26). -/
theorem memInitial_of_ge {font : Vector Byte 80} {a : Nat} (h : 80 ≤ a) : memInitial font a = 0#8 := dif_neg h.not_gt

/-- After `Reset` every valid address reads as its initial contents, under the configuration from before (R150). -/
theorem hostReset_readByte (s : State) {a : Nat} (h : a < 4096) :
    (hostReset s).readByte a = some (memInitial s.cfg.font a) := State.readByte_of_mem_nil rfl h

/-- With no program loaded, the word at the program base is 0x0000 (R156). -/
theorem fetchWord_reset : fetchWord State.reset = some 0x0000#16 := by
  have hzero {a : Nat} (h : 80 ≤ a) : State.reset.byteAt a = 0#8 := memInitial_of_ge h
  have hpc : State.reset.pc.toNat = 0x200 := rfl
  rw [fetchWord_eq, hpc, if_pos (by decide), hzero (by decide), hzero (by decide)]
  rfl

end Sys2Proof.Machine
end

section
/-!
PROOFS. The statements of spec/70_reset_and_hazards.md.
-/

namespace Sys2Proof.Machine

/-- Settles O49: `Reset` gives the fields of the reset state (R26), and memory reads as its initial contents under the
configuration that stays. -/
theorem resetReinitializesEverything : Obligations.ResetReinitializesEverything := by
  intro s rest hs
  obtain ⟨hreg, hindex, hpc, hsp, hdt, hst, -, -, hcell, hchanged, hcode, hinfo⟩ := resetStateValues
  refine ⟨hostReset { s with schedule := rest }, step_cons hs, hreg, hindex, hpc, hsp, hdt, hst, fun a h => ?font,
    fun a h1 h2 => ?zero, hcell, hchanged, hcode, hinfo, rfl, rfl⟩
  case font => rw [hostReset_readByte _ (by omega), memInitial_of_lt h]
  case zero => rw [hostReset_readByte _ (Nat.lt_succ_of_le h2), memInitial_of_ge h1]

/-- Settles O50: a program that fits ends within memory, so its bytes read back and every byte outside is as before; one that
does not fit is refused. -/
theorem loadProgramCopiesOrRefuses : Obligations.LoadProgramCopiesOrRefuses := by
  refine fun s bytes rest hs => ⟨fun hfits => ?fits, fun hlong => ?long⟩
  case fits =>
    have hle : 0x200 + bytes.length ≤ 4096 := Nat.add_le_add_left hfits 0x200
    have hload := hostLoadProgram_of_le { s with schedule := rest } hfits
    refine ⟨_, (step_cons hs).trans (congrArg Host.Outcome.next hload), rfl,
      fun k hk => State.storeFrom_readByte hle hk, fun a ha => State.storeFrom_readByte_outside hle ha, ?frame⟩
    case frame =>
      obtain ⟨m, hm⟩ := State.exists_mem_of_storeFrom { s with schedule := rest } 0x200 bytes
      rw [hm]
  case long => exact (step_cons hs).trans (congrArg Host.Outcome.next (hostLoadProgram_of_gt _ hlong))

/-- Settles O51, by what a register reads after `SetRegister`; no other field is written. -/
theorem setRegisterWritesOneRegister : Obligations.SetRegisterWritesOneRegister := by
  intro s i v rest hs
  refine ⟨_, step_cons hs, ?written, fun r hr => ?others, fun _ => rfl, rfl⟩
  case written => exact (hostSetRegister_reg i i v _).trans (if_pos rfl)
  case others => exact (hostSetRegister_reg i r v _).trans (if_neg fun h => hr (List.mem_singleton.mpr h))

/-- Settles O54: neither the inputs nor the schedule reach the fetch, and the decoder rejects the word 0x0000. -/
theorem stepAfterResetFaults : Obligations.StepAfterResetFaults := by
  intro keys rnd rest
  have hreject : decode .implemented 0x0000#16 = .error (.unrecognized 0x0000#16) := rfl
  have hfetch : fetchWord ({ State.reset with schedule := rest }.withInputs keys rnd) = some 0x0000#16 := fetchWord_reset
  rw [step_cons (m := .step keys rnd) (rest := rest) rfl]
  exact coreStep_of_reject rfl hfetch hreject

end Sys2Proof.Machine
end
